-- ==== Sys2Proof/Word.lean ====
section
/-! DEFINITION. The three widths of the block: a register, a byte of the packet buffer, a 16-bit wire field
(spec/00_scope.md R5 `XLEN`, R10). -/

namespace Sys2Proof

/-- A host-visible register: 32 bits (00 R5). -/
abbrev Word := BitVec 32

/-- One byte of the packet buffer (00 R10). -/
abbrev Byte := BitVec 8

/-- A 2-byte wire field (00 R10). -/
abbrev Half := BitVec 16

end Sys2Proof
end

