-- ==== Sys2Proof/Config.lean ====
section
/-! DEFINITION. What an instance of the block fixes (spec/00_scope.md R5) and the one free value of the spec
(spec/10_state.md R45). The parameters are values of type `Params`, held in the state and never changed by a step,
so that a statement over every state is a statement over every instance (log 5). -/

namespace Sys2Proof

/-- The eight ICMP kinds, in the order of 30_encoding.md R112 (kind numbers 0 to 7). -/
inductive IcmpKind where
  | echo | destUnreachable | sourceQuench | redirect | timeExceeded | parameterProblem | timestamp | information
  deriving DecidableEq, Repr

/-- The fifteen chunk kinds, in the order of their kind numbers 0 to 14 (30_encoding.md R118). -/
inductive ChunkKind where
  | data | init | initAck | sack | heartbeat | heartbeatAck | abort | shutdown | shutdownAck | error
  | cookieEcho | cookieAck | shutdownComplete | reserved1 | reserved2
  deriving DecidableEq, Repr

/-- The form of a length rule on `chunkLength`: the three that the printed table of 30_encoding.md R118 uses. That a
configured `CHUNK_TYPE_TABLE` may hold no other form is the model's choice (DESIGN CHOICE, log 20): 00_scope.md R5 and
92_eei_decisions.md allow any finite map with the stated columns and are silent on the form of a rule. -/
inductive LenRule where
  | atLeast (n : Nat)
  | moreThan (n : Nat)
  | exactly (n : Nat)
  deriving DecidableEq, Repr

/-- One row of `ICMP_TYPE_TABLE`: type tag, kind, `reply` column (30_encoding.md R112). -/
structure IcmpRow where
  tag : Byte
  kind : IcmpKind
  reply : Bool
  deriving DecidableEq, Repr

/-- One row of `CHUNK_TYPE_TABLE`: chunk type, kind, length rule (30_encoding.md R118). -/
structure ChunkRow where
  type : Byte
  kind : ChunkKind
  rule : LenRule
  deriving DecidableEq, Repr

/-- The open parameters of 00_scope.md R5: `BUF_BYTES`, `ICMP_ERR_REGION_BYTES`, `ICMP_TYPE_TABLE`,
`CHUNK_TYPE_TABLE`. -/
structure Params where
  bufBytes : Nat
  icmpErrRegion : Nat
  icmpTypes : List IcmpRow
  chunkTypes : List ChunkRow
  deriving DecidableEq, Repr

/-- FREE VALUE (10_state.md R45, log 3): what byte `addr` of `BUF` holds after the `epoch`-th hardware reset until
something writes it. "Each unwritten byte [is] a free input chosen once at reset": no proof can evaluate it. -/
opaque Config.bufAtReset (epoch addr : Nat) : Byte

end Sys2Proof
end

