-- ==== Sys2Proof/Syntax.lean ====
section
/-! DEFINITION. The syntax of the block: one constructor of `Instr` for each row of spec/opcode_table.json (18 commands,
11 ICMP type-tag rows, 15 SCTP chunk-type rows), the encodings they are written in, the host's accesses and the host's
script lines (spec/30_encoding.md R130, R131). -/

namespace Sys2Proof

/-- The rows of spec/opcode_table.json. The first 18 are the commands of 30_encoding.md R92; the `icmpType…` rows are
those of `ICMP_TYPE_TABLE` (R112) and the `chunkType…` rows those of `CHUNK_TYPE_TABLE` (R118). No row has an operand
field: operands are the registers `A0..A3` (R90). -/
inductive Instr where
  | nop | oc16Gen | oc16Val | crc32cGen | crc32cVal | padAlign4
  | ip4HdrParse | ip4DgramParse | ip4CsumPatch
  | icmpParse | icmpCsumPatch
  | sctpHdrParse | sctpPktCheck | sctpPktWalk | sctpCsumPatch
  | sctpChunkNext | sctpChunkFrame | srst
  | icmpTypeEchoReply | icmpTypeDestUnreachable | icmpTypeSourceQuench | icmpTypeRedirect | icmpTypeEcho
  | icmpTypeTimeExceeded | icmpTypeParameterProblem | icmpTypeTimestamp | icmpTypeTimestampReply
  | icmpTypeInfoRequest | icmpTypeInfoReply
  | chunkTypeData | chunkTypeInit | chunkTypeInitAck | chunkTypeSack | chunkTypeHeartbeat | chunkTypeHeartbeatAck
  | chunkTypeAbort | chunkTypeShutdown | chunkTypeShutdownAck | chunkTypeError | chunkTypeCookieEcho
  | chunkTypeCookieAck | chunkTypeReserved1 | chunkTypeReserved2 | chunkTypeShutdownComplete
  deriving DecidableEq, Repr

/-- An encoded row, in the format the opcode table names for it: a 32-bit command word (30 R90), the type byte of an
ICMP message (R105) or the type byte of an SCTP chunk (R116). -/
inductive Code where
  | cmd32 (v : Word)
  | icmpType8 (t : Byte)
  | sctpChunkType8 (t : Byte)
  deriving DecidableEq, Repr

/-- One host access on the port (20_memory.md R70 to R73): 32 bits at a register offset, or one byte. -/
inductive Access where
  | read32 (offset : Nat)
  | write32 (offset : Nat) (v : Word)
  | read8 (offset : Nat)
  | write8 (offset : Nat) (b : Byte)
  deriving DecidableEq, Repr

/-- One move of an agent (10 R20; log 6): a host access, a host `WAIT` (30 R130), a turn given to the block, or a
hardware reset from outside (70 R370). -/
inductive Turn where
  | access (a : Access)
  | wait
  | block
  | hardwareReset
  deriving DecidableEq, Repr

/-- The registers an `RD` line may name (30 R130). -/
inductive RegName where
  | status | id | cap
  | a (i : Fin 4)
  | r (i : Fin 16)
  deriving DecidableEq, Repr

/-- A line of a host script: the seven lines of 30 R130 and the pseudo-lines of R131. -/
inductive Line where
  | wr (i : Fin 4) (v : Word)
  | rd (r : RegName)
  | wb (off : Nat) (bytes : List Byte)
  | rb (off n : Nat)
  | cmd (c : Instr)
  | cmdw (v : Word)
  | wait
  | run (c : Instr) (operands : List Word)
  | w16 (off : Nat) (v : Half)
  | w32 (off : Nat) (v : Word)
  | zero (off n : Nat)
  deriving DecidableEq, Repr

end Sys2Proof
end

