-- ==== Sys2Proof/Machine/Tables.lean ====
section
/-! DEFINITION. The two dispatch tables (spec/30_encoding.md R112, R118), their lookups and the kind numbers, and the
default parameters of spec/00_scope.md R5. -/

namespace Sys2Proof.Machine

/-- Kind number of an ICMP kind: the order of 30 R112. -/
def icmpKindNumber : IcmpKind → Nat
  | .echo => 0 | .destUnreachable => 1 | .sourceQuench => 2 | .redirect => 3
  | .timeExceeded => 4 | .parameterProblem => 5 | .timestamp => 6 | .information => 7

/-- The error-report kinds are kinds 1 to 5 (30 R107, 90 C4). -/
def isErrorReport : IcmpKind → Bool
  | .destUnreachable | .sourceQuench | .redirect | .timeExceeded | .parameterProblem => true
  | .echo | .timestamp | .information => false

/-- Kind number of a chunk kind (30 R118): 0 to 12 in the source's order, 13 and 14 the two reserved kinds. -/
def chunkKindNumber : ChunkKind → Nat
  | .data => 0 | .init => 1 | .initAck => 2 | .sack => 3 | .heartbeat => 4 | .heartbeatAck => 5 | .abort => 6
  | .shutdown => 7 | .shutdownAck => 8 | .error => 9 | .cookieEcho => 10 | .cookieAck => 11
  | .shutdownComplete => 12 | .reserved1 => 13 | .reserved2 => 14

/-- Whether `L` satisfies a length rule of 30 R118, in one of the three forms of `LenRule` (log 20). -/
def lenRuleOk : LenRule → Nat → Bool
  | .atLeast n, L => n ≤ L
  | .moreThan n, L => n < L
  | .exactly n, L => L == n

/-- `ICMP_TYPE_TABLE` of 30 R112, row by row (PRESUMED tag values: the spec marks them from general knowledge, log 10). -/
def defaultIcmpTypes : List IcmpRow :=
  [⟨0, .echo, true⟩, ⟨3, .destUnreachable, false⟩, ⟨4, .sourceQuench, false⟩, ⟨5, .redirect, false⟩,
   ⟨8, .echo, false⟩, ⟨11, .timeExceeded, false⟩, ⟨12, .parameterProblem, false⟩, ⟨13, .timestamp, false⟩,
   ⟨14, .timestamp, true⟩, ⟨15, .information, false⟩, ⟨16, .information, true⟩]

/-- `CHUNK_TYPE_TABLE` of 30 R118, row by row (PRESUMED type numbers: the spec marks them from general knowledge,
log 10). -/
def defaultChunkTypes : List ChunkRow :=
  [⟨0, .data, .atLeast 16⟩, ⟨1, .init, .atLeast 20⟩, ⟨2, .initAck, .atLeast 20⟩, ⟨3, .sack, .atLeast 16⟩,
   ⟨4, .heartbeat, .atLeast 4⟩, ⟨5, .heartbeatAck, .atLeast 4⟩, ⟨6, .abort, .atLeast 4⟩, ⟨7, .shutdown, .exactly 8⟩,
   ⟨8, .shutdownAck, .atLeast 4⟩, ⟨9, .error, .moreThan 4⟩, ⟨10, .cookieEcho, .atLeast 4⟩,
   ⟨11, .cookieAck, .atLeast 4⟩, ⟨14, .shutdownComplete, .exactly 4⟩, ⟨12, .reserved1, .atLeast 4⟩,
   ⟨13, .reserved2, .atLeast 4⟩]

/-- The default parameters of 00 R5. -/
def defaultParams : Params :=
  { bufBytes := 65536, icmpErrRegion := 8, icmpTypes := defaultIcmpTypes, chunkTypes := defaultChunkTypes }

/-- `IcmpKind(t)` of 30 R112: the row with tag `t`, or `none`. -/
def icmpRowOf (tbl : List IcmpRow) (t : Byte) : Option IcmpRow := tbl.find? (fun r => r.tag == t)

/-- `ChunkKind(t)` of 30 R118: the kind of the row with type `t`, or `none`. -/
def chunkKindOf (tbl : List ChunkRow) (t : Byte) : Option ChunkKind :=
  (tbl.find? (fun r => r.type == t)).map (·.kind)

/-- `ChunkLenOK(k, L)` of 30 R118: the length rule of the row with kind `k`. Where a table gives one kind two rows, the
first one counts (DESIGN CHOICE, log 12). -/
def chunkLenOk (tbl : List ChunkRow) (k : ChunkKind) (L : Nat) : Bool :=
  match tbl.find? (fun r => r.kind == k) with
  | some r => lenRuleOk r.rule L
  | none => false

end Sys2Proof.Machine
end

