-- ==== Sys2Proof/WellFormed.lean ====
section
/-! DEFINITION. The checks on terms: which rows are commands (spec/30_encoding.md R92), which script lines have an
expansion (R130, R131), which accesses exist on the port (spec/10_state.md R29, spec/20_memory.md R61), which parameter
values are legal (spec/00_scope.md R5). -/

namespace Sys2Proof

/-- The row is one of the 18 commands of 30 R92, so it may be written to `CMD`. -/
def Instr.isCommand : Instr → Bool
  | .nop | .oc16Gen | .oc16Val | .crc32cGen | .crc32cVal | .padAlign4
  | .ip4HdrParse | .ip4DgramParse | .ip4CsumPatch | .icmpParse | .icmpCsumPatch
  | .sctpHdrParse | .sctpPktCheck | .sctpPktWalk | .sctpCsumPatch
  | .sctpChunkNext | .sctpChunkFrame | .srst => true
  | .icmpTypeEchoReply | .icmpTypeDestUnreachable | .icmpTypeSourceQuench | .icmpTypeRedirect | .icmpTypeEcho
  | .icmpTypeTimeExceeded | .icmpTypeParameterProblem | .icmpTypeTimestamp | .icmpTypeTimestampReply
  | .icmpTypeInfoRequest | .icmpTypeInfoReply
  | .chunkTypeData | .chunkTypeInit | .chunkTypeInitAck | .chunkTypeSack | .chunkTypeHeartbeat
  | .chunkTypeHeartbeatAck | .chunkTypeAbort | .chunkTypeShutdown | .chunkTypeShutdownAck | .chunkTypeError
  | .chunkTypeCookieEcho | .chunkTypeCookieAck | .chunkTypeReserved1 | .chunkTypeReserved2
  | .chunkTypeShutdownComplete => false

/-- A script line names a command where it needs one, and a `RUN` line has no operand, or two, three or four of them
(30 R131). -/
def Line.wellFormed : Line → Bool
  | .cmd c => c.isCommand
  | .run c ops => c.isCommand && [0, 2, 3, 4].contains ops.length
  | .wr _ _ | .rd _ | .wb _ _ | .rb _ _ | .cmdw _ | .wait | .w16 _ _ | .w32 _ _ | .zero _ _ => true

/-- The access exists on the port: 32-bit accesses are aligned and lie below the buffer window ("narrower or misaligned
register accesses do not exist", 10 R29), byte accesses lie in the window ("wider host accesses to the window do not
exist", 20 R61). -/
def Access.onPort : Access → Bool
  | .read32 o | .write32 o _ => o % 4 == 0 && o < 0x10000
  | .read8 o | .write8 o _ => 0x10000 ≤ o

/-- No two rows of a table carry the same tag: the table is a map (00 R5, 92 open parameters). -/
def distinctTags : List Byte → Bool
  | [] => true
  | t :: ts => !ts.contains t && distinctTags ts

/-- The parameter values are legal: 00_scope.md R5 and the open-parameter table of 92_eei_decisions.md. -/
def Params.wellFormed (p : Params) : Bool :=
  p.bufBytes % 4 == 0 && 64 ≤ p.bufBytes && p.bufBytes ≤ 65536
    && (p.icmpErrRegion == 8 || p.icmpErrRegion == 4)
    && distinctTags (p.icmpTypes.map (·.tag)) && distinctTags (p.chunkTypes.map (·.type))

end Sys2Proof
end

