-- ==== Sys2Proof/Decode.lean ====
section
/-! DEFINITION. The two levels of decoding (spec/30_encoding.md): the command word (R90, R91) and the type tag of a
message or chunk (R112, R118), total, rejecting by name; and after it the encoder. -/

namespace Sys2Proof

/-- Why an encoding names no row of the opcode table. -/
inductive Reject where
  /-- Some of bits 31:8 of a command word is set (30 R90). -/
  | upperBits
  /-- Bits 7:0 of a command word are none of the 18 opcodes (30 R93). -/
  | unknownOpcode
  /-- No row of `ICMP_TYPE_TABLE` has this tag (30 R113). -/
  | unknownIcmpType
  /-- No row of `CHUNK_TYPE_TABLE` has this type (30 R119). -/
  | unknownChunkType
  deriving DecidableEq, Repr

/-- One command row of spec/opcode_table.json: mask, match bits, row. -/
structure CommandRow where
  mask : Word
  bits : Word
  instr : Instr
  deriving DecidableEq, Repr

/-- The command set of 30 R92, complete: 18 rows, every mask `0xFFFFFFFF` (R91). -/
def commandRows : List CommandRow :=
  [⟨0xFFFFFFFF, 0x00000000, .nop⟩, ⟨0xFFFFFFFF, 0x00000001, .oc16Gen⟩, ⟨0xFFFFFFFF, 0x00000002, .oc16Val⟩,
   ⟨0xFFFFFFFF, 0x00000003, .crc32cGen⟩, ⟨0xFFFFFFFF, 0x00000004, .crc32cVal⟩, ⟨0xFFFFFFFF, 0x00000008, .padAlign4⟩,
   ⟨0xFFFFFFFF, 0x00000010, .ip4HdrParse⟩, ⟨0xFFFFFFFF, 0x00000011, .ip4DgramParse⟩,
   ⟨0xFFFFFFFF, 0x00000012, .ip4CsumPatch⟩, ⟨0xFFFFFFFF, 0x00000020, .icmpParse⟩,
   ⟨0xFFFFFFFF, 0x00000021, .icmpCsumPatch⟩, ⟨0xFFFFFFFF, 0x00000030, .sctpHdrParse⟩,
   ⟨0xFFFFFFFF, 0x00000031, .sctpPktCheck⟩, ⟨0xFFFFFFFF, 0x00000032, .sctpPktWalk⟩,
   ⟨0xFFFFFFFF, 0x00000033, .sctpCsumPatch⟩, ⟨0xFFFFFFFF, 0x00000040, .sctpChunkNext⟩,
   ⟨0xFFFFFFFF, 0x00000041, .sctpChunkFrame⟩, ⟨0xFFFFFFFF, 0x0000007F, .srst⟩]

/-- Decoding a command word (30 R91): the row with `v & mask = match`, else illegal. -/
def decodeCommand (v : Word) : Except Reject Instr :=
  match commandRows.find? (fun r => v &&& r.mask == r.bits) with
  | some r => .ok r.instr
  | none => if v >>> 8 = 0 then .error .unknownOpcode else .error .upperBits

/-- The opcode-table row of an ICMP kind and `reply` column (30 R112). A reply of a kind that has none is no row. -/
def icmpRowInstr : IcmpKind → Bool → Option Instr
  | .echo, true => some .icmpTypeEchoReply
  | .echo, false => some .icmpTypeEcho
  | .destUnreachable, false => some .icmpTypeDestUnreachable
  | .sourceQuench, false => some .icmpTypeSourceQuench
  | .redirect, false => some .icmpTypeRedirect
  | .timeExceeded, false => some .icmpTypeTimeExceeded
  | .parameterProblem, false => some .icmpTypeParameterProblem
  | .timestamp, false => some .icmpTypeTimestamp
  | .timestamp, true => some .icmpTypeTimestampReply
  | .information, false => some .icmpTypeInfoRequest
  | .information, true => some .icmpTypeInfoReply
  | .destUnreachable, true | .sourceQuench, true | .redirect, true | .timeExceeded, true
  | .parameterProblem, true => none

/-- The opcode-table row of a chunk kind (30 R118). -/
def chunkRowInstr : ChunkKind → Instr
  | .data => .chunkTypeData | .init => .chunkTypeInit | .initAck => .chunkTypeInitAck | .sack => .chunkTypeSack
  | .heartbeat => .chunkTypeHeartbeat | .heartbeatAck => .chunkTypeHeartbeatAck | .abort => .chunkTypeAbort
  | .shutdown => .chunkTypeShutdown | .shutdownAck => .chunkTypeShutdownAck | .error => .chunkTypeError
  | .cookieEcho => .chunkTypeCookieEcho | .cookieAck => .chunkTypeCookieAck
  | .shutdownComplete => .chunkTypeShutdownComplete | .reserved1 => .chunkTypeReserved1
  | .reserved2 => .chunkTypeReserved2

/-- Decoding an ICMP type tag through the default table (30 R112, R113). -/
def decodeIcmpType (t : Byte) : Except Reject Instr :=
  match Machine.icmpRowOf Machine.defaultIcmpTypes t with
  | some r =>
    match icmpRowInstr r.kind r.reply with
    | some i => .ok i
    | none => .error .unknownIcmpType
  | none => .error .unknownIcmpType

/-- Decoding a chunk type through the default table (30 R118, R119). -/
def decodeChunkType (t : Byte) : Except Reject Instr :=
  match Machine.chunkKindOf Machine.defaultChunkTypes t with
  | some k => .ok (chunkRowInstr k)
  | none => .error .unknownChunkType

/-- Decoding, total on every encoding of every format. -/
def decode : Code → Except Reject Instr
  | .cmd32 v => decodeCommand v
  | .icmpType8 t => decodeIcmpType t
  | .sctpChunkType8 t => decodeChunkType t

/-- The encoding of a row, written from spec/opcode_table.json and 30 R92, R112, R118. -/
def encode : Instr → Code
  | .nop => .cmd32 0x00 | .oc16Gen => .cmd32 0x01 | .oc16Val => .cmd32 0x02
  | .crc32cGen => .cmd32 0x03 | .crc32cVal => .cmd32 0x04 | .padAlign4 => .cmd32 0x08
  | .ip4HdrParse => .cmd32 0x10 | .ip4DgramParse => .cmd32 0x11 | .ip4CsumPatch => .cmd32 0x12
  | .icmpParse => .cmd32 0x20 | .icmpCsumPatch => .cmd32 0x21
  | .sctpHdrParse => .cmd32 0x30 | .sctpPktCheck => .cmd32 0x31 | .sctpPktWalk => .cmd32 0x32
  | .sctpCsumPatch => .cmd32 0x33 | .sctpChunkNext => .cmd32 0x40 | .sctpChunkFrame => .cmd32 0x41
  | .srst => .cmd32 0x7F
  | .icmpTypeEchoReply => .icmpType8 0 | .icmpTypeDestUnreachable => .icmpType8 3
  | .icmpTypeSourceQuench => .icmpType8 4 | .icmpTypeRedirect => .icmpType8 5 | .icmpTypeEcho => .icmpType8 8
  | .icmpTypeTimeExceeded => .icmpType8 11 | .icmpTypeParameterProblem => .icmpType8 12
  | .icmpTypeTimestamp => .icmpType8 13 | .icmpTypeTimestampReply => .icmpType8 14
  | .icmpTypeInfoRequest => .icmpType8 15 | .icmpTypeInfoReply => .icmpType8 16
  | .chunkTypeData => .sctpChunkType8 0 | .chunkTypeInit => .sctpChunkType8 1
  | .chunkTypeInitAck => .sctpChunkType8 2 | .chunkTypeSack => .sctpChunkType8 3
  | .chunkTypeHeartbeat => .sctpChunkType8 4 | .chunkTypeHeartbeatAck => .sctpChunkType8 5
  | .chunkTypeAbort => .sctpChunkType8 6 | .chunkTypeShutdown => .sctpChunkType8 7
  | .chunkTypeShutdownAck => .sctpChunkType8 8 | .chunkTypeError => .sctpChunkType8 9
  | .chunkTypeCookieEcho => .sctpChunkType8 10 | .chunkTypeCookieAck => .sctpChunkType8 11
  | .chunkTypeReserved1 => .sctpChunkType8 12 | .chunkTypeReserved2 => .sctpChunkType8 13
  | .chunkTypeShutdownComplete => .sctpChunkType8 14

/-- The word a host writes to `CMD` for a command (30 R130); a type-tag row has none. -/
def commandWord (i : Instr) : Option Word :=
  match encode i with
  | .cmd32 v => some v
  | .icmpType8 _ | .sctpChunkType8 _ => none

/-- What the decoder reads from an opcode-table word of `nbits` bits. A word of 8 bits is a type tag; nine tag values
stand in both dispatch tables, and the byte alone does not say which one is meant, so the first row in table order is
answered (DESIGN CHOICE, log 2). Any other width up to 32 is a command word. -/
def decodeTableWord (nbits w : Nat) : Option Instr :=
  if nbits = 8 then
    match decode (.icmpType8 (BitVec.ofNat 8 w)) with
    | .ok i => some i
    | .error _ => (decode (.sctpChunkType8 (BitVec.ofNat 8 w))).toOption
  else if nbits ≤ 32 then (decode (.cmd32 (BitVec.ofNat 32 w))).toOption
  else none

end Sys2Proof
end

