-- ==== Sys2Proof/Machine/Memory.lean ====
section
/-! DEFINITION. The written bytes of the packet buffer (spec/20_memory.md R60): a list of (offset, byte) pairs with
strictly rising offsets. A byte that no write has reached since reset is not listed and has no value here; what a command
or the host reads from it is `State.byte` of Ops.lean (log 3, log 4). -/

namespace Sys2Proof.Machine

/-- The bytes written since hardware reset. -/
abbrev Memory := List Host.Cell

/-- The byte written at `a`, or `none` where nothing has been written. -/
def Memory.read : Memory → Nat → Option Byte
  | [], _ => none
  | (b, v) :: m, a => if a = b then some v else Memory.read m a

/-- Write one byte, keeping the offsets strictly rising. -/
def Memory.write : Memory → Nat → Byte → Memory
  | [], a, v => [(a, v)]
  | (b, w) :: m, a, v =>
    if a < b then (a, v) :: (b, w) :: m
    else if a = b then (a, v) :: m
    else (b, w) :: Memory.write m a v

/-- Apply a list of byte stores in order (60 R340: the rule's MemWrite list). -/
def Memory.writeAll (m : Memory) (cells : List Host.Cell) : Memory :=
  cells.foldl (fun m c => Memory.write m c.1 c.2) m

/-- Every offset of the list is above `lo`, and they rise strictly. -/
def Memory.risingFrom : Nat → Memory → Bool
  | _, [] => true
  | lo, (a, _) :: m => lo ≤ a && Memory.risingFrom (a + 1) m

/-- The canonical form: offsets strictly rising. An unlisted offset holds no written byte, so no entry can equal what
an unlisted offset reads as. -/
def Memory.wf (m : Memory) : Bool := Memory.risingFrom 0 m

/-- Every listed offset lies in the buffer (10 R40). -/
def Memory.within (n : Nat) (m : Memory) : Bool := m.all (fun c => c.1 < n)

end Sys2Proof.Machine
end

