-- ==== Sys2Proof/Machine/State.lean ====
section
/-! DEFINITION. The state of one instance (spec/10_state.md R22) as plain data, the two agents' remaining moves (R20),
the reasons a step can stop, and the state after hardware reset (R43, spec/70_reset_and_hazards.md R371). -/

namespace Sys2Proof.Machine

/-- The operand registers `A0..A3` (10 R23). -/
structure Operands where
  a0 : Word := 0#32
  a1 : Word := 0#32
  a2 : Word := 0#32
  a3 : Word := 0#32
  deriving DecidableEq, Repr

/-- The result registers `R0..R15` (10 R24). A register a rule does not list is written 0: the default of its field. -/
structure Results where
  r0 : Word := 0#32
  r1 : Word := 0#32
  r2 : Word := 0#32
  r3 : Word := 0#32
  r4 : Word := 0#32
  r5 : Word := 0#32
  r6 : Word := 0#32
  r7 : Word := 0#32
  r8 : Word := 0#32
  r9 : Word := 0#32
  r10 : Word := 0#32
  r11 : Word := 0#32
  r12 : Word := 0#32
  r13 : Word := 0#32
  r14 : Word := 0#32
  r15 : Word := 0#32
  deriving DecidableEq, Repr

/-- The fields of `STATUS` (10 R31). The host reads them packed (`Status.word`); no host write reaches them, so the
reserved bits 7 and 31:24 need no storage (log 14). -/
structure Status where
  busy : Bool := false
  done : Bool := false
  ok : Bool := false
  ovr : Bool := false
  kind : BitVec 3 := 0#3
  code : BitVec 8 := 0#8
  op : BitVec 8 := 0#8
  deriving DecidableEq, Repr

/-- The complete state of one instance (10 R22) beside the host agent of 10 R20.
`ops`, `res`, `status`, `pending`, `buf` are the spec's state; `params` the constants of the instance from which `CAP`
reads (10 R37); `resetEpoch`, `agenda` and `received` are the model's own (log 6, log 13). -/
structure State where
  /-- `A0..A3` (10 R23). -/
  ops : Operands
  /-- `R0..R15` (10 R24). -/
  res : Results
  /-- `STATUS` (10 R31). -/
  status : Status
  /-- `PENDING`, the accepted command word (10 R35). -/
  pending : Word
  /-- The bytes of `BUF` written since the last hardware reset (10 R40, R45). -/
  buf : Memory
  /-- The parameters of the instance (00 R5). -/
  params : Params
  /-- How many hardware resets there have been: it names the draw of the unwritten bytes (10 R45). -/
  resetEpoch : Nat
  /-- The moves still to come, first one first (10 R20, 20 R77). -/
  agenda : List Turn
  /-- What the host has read on the port, newest first. -/
  received : List Word
  deriving DecidableEq, Repr

/-- Why the machine stops. No command stops it: an error of a command is a next state (60 R340). -/
inductive Fault where
  /-- Raised by a host access that does not exist on the port: a 32-bit access that is misaligned or lies in the buffer
  window, or a byte access below the window (10 R29, 20 R61). SAFE: the spec gives such an access no effect (log 9). -/
  | noSuchAccess
  deriving DecidableEq, Repr

/-- Why the model gives no meaning. -/
inductive Refusal where
  /-- Raised by a dispatch arm that has no meaning yet. No arm raises it. SAFE. -/
  | notModelled (mnemonic : String)
  deriving DecidableEq, Repr

/-- The machine after hardware reset (10 R43, 70 R371): registers, `STATUS` and `PENDING` 0, no byte of `BUF` written,
the default parameters of 00 R5, no move yet to come. -/
def State.reset : State :=
  { ops := {}, res := {}, status := {}, pending := 0#32, buf := [], params := defaultParams,
    resetEpoch := 0, agenda := [], received := [] }

end Sys2Proof.Machine
end

