-- ==== Sys2Proof/Machine/Flags.lean ====
section
/-! DEFINITION. The flags and error fields of `STATUS`: the error causes with their kinds and codes
(spec/60_exceptions.md R331, R332), the packed word (spec/10_state.md R31) and the field updates of acceptance and
completion (60 R339, R340). -/

namespace Sys2Proof.Machine

/-- The error kinds the block produces (60 R331). Kinds 4, 5 and 6 are never produced and have no constructor. -/
inductive ErrorKind where
  | formatInvalid | lengthInvalid | checksumInvalid | operandInvalid
  deriving DecidableEq, Repr

/-- The value of `STATUS.KIND` (10 R32, 60 R331). -/
def kindNumber : ErrorKind → BitVec 3
  | .formatInvalid => 1#3
  | .lengthInvalid => 2#3
  | .checksumInvalid => 3#3
  | .operandInvalid => 7#3

/-- The causes of error, one for each code of 60 R332. -/
inductive CmdError where
  | operandRange | illegalCommand | oddLength | checksumOffsetRange
  | ipVersionInvalid | ipHeaderTruncated | ipIhlInvalid | ipHeaderOverrun | headerChecksumInvalid
  | ipTotalLengthInvalid | ipDatagramTruncated
  | messageTypeInvalid | icmpTruncated | icmpEmbeddedIhlInvalid | messageChecksumInvalid
  | sctpHeaderTruncated | packetChecksumInvalid
  | chunkTypeInvalid | chunkHeaderTruncated | chunkLengthInvalid | chunkOverrun | chunkValueTooLong
  deriving DecidableEq, Repr

/-- The `KIND` column of 60 R332. -/
def errorKind : CmdError → ErrorKind
  | .operandRange | .illegalCommand | .oddLength | .checksumOffsetRange => .operandInvalid
  | .ipVersionInvalid | .messageTypeInvalid | .chunkTypeInvalid => .formatInvalid
  | .headerChecksumInvalid | .messageChecksumInvalid | .packetChecksumInvalid => .checksumInvalid
  | .ipHeaderTruncated | .ipIhlInvalid | .ipHeaderOverrun | .ipTotalLengthInvalid | .ipDatagramTruncated
  | .icmpTruncated | .icmpEmbeddedIhlInvalid | .sctpHeaderTruncated
  | .chunkHeaderTruncated | .chunkLengthInvalid | .chunkOverrun | .chunkValueTooLong => .lengthInvalid

/-- The `CODE` column of 60 R332. -/
def errorCode : CmdError → BitVec 8
  | .operandRange => 0x01#8 | .illegalCommand => 0x02#8 | .oddLength => 0x03#8 | .checksumOffsetRange => 0x04#8
  | .ipVersionInvalid => 0x10#8 | .ipHeaderTruncated => 0x11#8 | .ipIhlInvalid => 0x12#8
  | .ipHeaderOverrun => 0x13#8 | .headerChecksumInvalid => 0x14#8 | .ipTotalLengthInvalid => 0x15#8
  | .ipDatagramTruncated => 0x16#8
  | .messageTypeInvalid => 0x20#8 | .icmpTruncated => 0x21#8 | .icmpEmbeddedIhlInvalid => 0x22#8
  | .messageChecksumInvalid => 0x23#8
  | .sctpHeaderTruncated => 0x30#8 | .packetChecksumInvalid => 0x31#8
  | .chunkTypeInvalid => 0x40#8 | .chunkHeaderTruncated => 0x41#8 | .chunkLengthInvalid => 0x42#8
  | .chunkOverrun => 0x43#8 | .chunkValueTooLong => 0x44#8

/-- `STATUS` as the host reads it (10 R31): bits 31:24 and bit 7 read 0. -/
def Status.word (st : Status) : Word :=
  0#8 ++ st.op ++ st.code ++ 0#1 ++ st.kind ++ BitVec.ofBool st.ovr ++ BitVec.ofBool st.ok ++ BitVec.ofBool st.done
    ++ BitVec.ofBool st.busy

/-- `STATUS` at acceptance of a command word whose bits 7:0 are `opcode` (60 R339): `OVR` alone survives. -/
def Status.accepted (st : Status) (opcode : BitVec 8) : Status :=
  { busy := true, done := false, ok := false, ovr := st.ovr, kind := 0#3, code := 0#8, op := opcode }

/-- `STATUS` at completion without error (60 R340): `OVR` and `OP` survive. -/
def Status.succeeded (st : Status) : Status :=
  { busy := false, done := true, ok := true, ovr := st.ovr, kind := 0#3, code := 0#8, op := st.op }

/-- `STATUS` at completion with the error `e` (60 R340): `OVR` and `OP` survive. -/
def Status.failed (st : Status) (e : CmdError) : Status :=
  { busy := false, done := true, ok := false, ovr := st.ovr, kind := kindNumber (errorKind e), code := errorCode e,
    op := st.op }

/-- `STATUS` after a dropped host write (20 R72): sticky `OVR`. -/
def Status.overrun (st : Status) : Status := { st with ovr := true }

end Sys2Proof.Machine
end

