-- ==== Sys2Proof/Machine/Ops.lean ====
section
/-! DEFINITION. The named operations over state, memory and registers: reading and storing buffer bytes big-endian
(spec/00_scope.md R10), the helper functions of R12, acceptance and the two completions of a command
(spec/60_exceptions.md R339, R340; completing with an error is the block's taking of an exception), and the two resets
(spec/70_reset_and_hazards.md R371). -/

namespace Sys2Proof.Machine

/-! ### Bytes of the buffer -/

/-- `BUF[a]`: the byte written there, or the free value of the last hardware reset (10 R45, log 3). -/
def State.byte (s : State) (a : Nat) : Byte :=
  match Memory.read s.buf a with
  | some v => v
  | none => Config.bufAtReset s.resetEpoch a

/-- `MemRead(a, 2)` over a byte reader: big-endian (00 R10, 20 R62). -/
def memRead2 (rd : Nat → Byte) (a : Nat) : Half := rd a ++ rd (a + 1)

/-- `MemRead(a, 4)` over a byte reader: big-endian (00 R10, 20 R62). -/
def memRead4 (rd : Nat → Byte) (a : Nat) : Word := rd a ++ rd (a + 1) ++ rd (a + 2) ++ rd (a + 3)

/-- The byte stores of `MemWrite(a, 2, v)`: most significant byte first (00 R10). -/
def cells2 (a : Nat) (v : Half) : List Host.Cell :=
  [(a, v.extractLsb' 8 8), (a + 1, v.extractLsb' 0 8)]

/-- The byte stores of `MemWrite(a, 4, v)`: most significant byte first (00 R10). -/
def cells4 (a : Nat) (v : Word) : List Host.Cell :=
  [(a, v.extractLsb' 24 8), (a + 1, v.extractLsb' 16 8), (a + 2, v.extractLsb' 8 8), (a + 3, v.extractLsb' 0 8)]

/-- `n` byte stores of zero from `a` on (45 R290: padding). -/
def zeroCells (a : Nat) : Nat → List Host.Cell
  | 0 => []
  | n + 1 => (a, 0#8) :: zeroCells (a + 1) n

/-! ### Arithmetic helpers -/

/-- `Align4(n)` of 00 R12. -/
def align4 (n : Nat) : Nat := 4 * ((n + 3) / 4)

/-- `Pad4(n)` of 00 R12. -/
def pad4 (n : Nat) : Nat := align4 n - n

/-- A natural number placed in a 32-bit register (00 R7). -/
def toWord (n : Nat) : Word := BitVec.ofNat 32 n

/-- A truth value placed in a 32-bit register: 1 or 0. -/
def flagWord (b : Bool) : Word := if b then 1#32 else 0#32

/-- A byte zero-extended into a 32-bit register (10 R24, 20 R86). -/
def byteWord (b : Byte) : Word := b.setWidth 32

/-- A 16-bit field zero-extended into a 32-bit register (10 R24, 20 R86). -/
def halfWord (h : Half) : Word := h.setWidth 32

/-! ### Completion of a command -/

/-- What a rule that ran to its end delivers: the sixteen result values and its `MemWrite` list (60 R340). -/
structure Done where
  regs : Results := {}
  stores : List Host.Cell := []
  deriving DecidableEq, Repr

/-- What a command's rule evaluates to: a result, or the first `raise` it reaches (00 R11, 60 R345). -/
abbrev Rule := Except CmdError Done

/-- Completion without error (60 R340, first case). -/
def succeed (s : State) (d : Done) : State :=
  { s with res := d.regs, buf := Memory.writeAll s.buf d.stores, status := s.status.succeeded }

/-- Completion with an error, the block's one exception entry (60 R330, R340 second case, R341, R342): results 0,
`BUF` unchanged, kind and code recorded; nothing saved, nothing vectored. -/
def raiseError (s : State) (e : CmdError) : State :=
  { s with res := {}, status := s.status.failed e }

/-- The completion step of a command whose rule evaluated to `r` (60 R340). -/
def complete (s : State) (r : Rule) : Host.Outcome State Fault Refusal :=
  match r with
  | .ok d => .next (succeed s d)
  | .error e => .next (raiseError s e)

/-! ### Acceptance -/

/-- Acceptance of the value `v` written to `CMD` while idle (60 R339). -/
def accept (s : State) (v : Word) : State :=
  { s with pending := v, status := s.status.accepted (v.extractLsb' 0 8) }

/-- A host write dropped while busy (20 R72). -/
def dropWrite (s : State) : State := { s with status := s.status.overrun }

/-- The command word the completion step evaluates (60 R340): the block's fetch. -/
def fetchCommand (s : State) : Word := s.pending

/-! ### Resets -/

/-- Soft reset (46 R322): registers, `STATUS` and `PENDING` become 0, `BUF` keeps its content. -/
def softReset (s : State) : State :=
  { s with ops := {}, res := {}, status := {}, pending := 0#32 }

/-- Hardware reset (70 R371, R372; 10 R43, R45): the registers of soft reset, and every byte of `BUF` unspecified: a
new draw (log 13). A pending command is abandoned. -/
def hardwareReset (s : State) : State :=
  { softReset s with buf := [], resetEpoch := s.resetEpoch + 1 }

end Sys2Proof.Machine
end

