-- ==== Sys2Proof/Machine/Operands.lean ====
section
/-! DEFINITION. The operand forms: what a command reads from `A0..A3` (spec/10_state.md R23) and the range check
common to every command that names a region (spec/20_memory.md R66). Lengths and offsets are natural numbers
(spec/00_scope.md R7). -/

namespace Sys2Proof.Machine

/-- `A0` as `BASE`, or as the cursor `CUR` of a chunk command (10 R23). -/
abbrev Operands.base (o : Operands) : Nat := o.a0.toNat

/-- `A1` as `LEN`, the bytes that remain `REM`, or the length `PAD.ALIGN4` rounds (10 R23). -/
abbrev Operands.len (o : Operands) : Nat := o.a1.toNat

/-- `A2` as `CKOFF`, the checksum-field offset relative to `BASE` (41 R165). -/
abbrev Operands.ckOff (o : Operands) : Nat := o.a2.toNat

/-- `A2[15:8]`, the chunk type to write (45 R290). -/
abbrev Operands.frameType (o : Operands) : Byte := o.a2.extractLsb' 8 8

/-- `A2[7:0]`, the chunk flags to write (45 R290). -/
abbrev Operands.frameFlags (o : Operands) : Byte := o.a2.extractLsb' 0 8

/-- `A2[31:16]`, which must be zero (45 R290). -/
abbrev Operands.frameUpper (o : Operands) : Half := o.a2.extractLsb' 16 16

/-- `A3` as `V`, the length of a chunk's value (45 R290). -/
abbrev Operands.valueLen (o : Operands) : Nat := o.a3.toNat

/-- `InRange(A[0], A[1])` (00 R12, 20 R66). -/
def inRange (p : Params) (o : Operands) : Bool := o.base + o.len ≤ p.bufBytes

/-- The range check that stands first in every command with a region (20 R66). -/
def guardRegion (p : Params) (o : Operands) (r : Rule) : Rule :=
  if inRange p o then r else .error .operandRange

end Sys2Proof.Machine
end

