-- ==== Sys2Proof/Machine/Crc32c.lean ====
section
/-! DEFINITION. The CRC32c unit: its arithmetic (spec/41_crc32c.md R161, R162) and the commands `CRC32C.GEN` (R165) and
`CRC32C.VAL` (R166). The polynomial's number, the table construction and the update step are the spec's own passages
from general knowledge (spec/93_implementation_defined.md G8, G9; PRESUMED, log 11). -/

namespace Sys2Proof.Machine

/-- The Castagnoli polynomial in reflected form (00 R5, 41 R161). -/
def crcPolyReflected : Word := 0x82F63B78#32

/-- The initial CRC register (00 R5). -/
def crcInit : Word := 0xFFFFFFFF#32

/-- One of the eight shifts that build a table entry (41 R161). -/
def crcShift (c : Word) : Word :=
  if c.getLsbD 0 then (c >>> 1) ^^^ crcPolyReflected else c >>> 1

/-- `n` shifts in a row. -/
def crcShifts : Nat → Word → Word
  | 0, c => c
  | n + 1, c => crcShifts n (crcShift c)

/-- The table entry `T[i]` of 41 R161. -/
def crcTable (i : Byte) : Word := crcShifts 8 (i.setWidth 32)

/-- The byte-wise update of 41 R162: `T[(crc ^ b) & 0xFF] ^ (crc >> 8)`. -/
def crcUpdate (crc : Word) (b : Byte) : Word :=
  crcTable (crc.extractLsb' 0 8 ^^^ b) ^^^ (crc >>> 8)

/-- `Byte(i)` of 41 R162: the four bytes of the checksum field at `k` read as zero. -/
def crcByte (rd : Nat → Byte) (base k i : Nat) : Byte :=
  if k ≤ i ∧ i < k + 4 then 0#8 else rd (base + i)

/-- `crc_n` of 41 R162: bytes are consumed in ascending offset. -/
def crcRegister (rd : Nat → Byte) (base k : Nat) : Nat → Word
  | 0 => crcInit
  | n + 1 => crcUpdate (crcRegister rd base k n) (crcByte rd base k n)

/-- `Crc32c(base, n, k)` of 41 R162. -/
def crc32c (rd : Nat → Byte) (base n k : Nat) : Word := ~~~ crcRegister rd base k n

/-- Range and checksum-offset checks of the two commands, in the order of 41 R165, R166. -/
def crc32cGuard (p : Params) (o : Operands) (d : Done) : Rule :=
  guardRegion p o <| if o.ckOff + 4 > o.len then .error .checksumOffsetRange else .ok d

/-- The rule of `CRC32C.GEN` (41 R165). -/
def crc32cGenRule (p : Params) (o : Operands) (rd : Nat → Byte) : Rule :=
  crc32cGuard p o { regs := { r0 := crc32c rd o.base o.len o.ckOff } }

/-- The rule of `CRC32C.VAL` (41 R166): the stored value is read big-endian (R163, log 11); a mismatch is a result, not
an error (60 R335). -/
def crc32cValRule (p : Params) (o : Operands) (rd : Nat → Byte) : Rule :=
  let stored := memRead4 rd (o.base + o.ckOff)
  let computed := crc32c rd o.base o.len o.ckOff
  crc32cGuard p o { regs := { r0 := flagWord (stored == computed), r1 := computed, r2 := stored } }

/-- `CRC32C.GEN` (41 R165). -/
def execCrc32cGen (s : State) : Host.Outcome State Fault Refusal :=
  complete s (crc32cGenRule s.params s.ops s.byte)

/-- `CRC32C.VAL` (41 R166). -/
def execCrc32cVal (s : State) : Host.Outcome State Fault Refusal :=
  complete s (crc32cValRule s.params s.ops s.byte)

end Sys2Proof.Machine
end

