-- ==== Sys2Proof/Machine/Framing.lean ====
section
/-! DEFINITION. The chunk framing and padding unit (spec/45_chunk_framing.md): `Chunk(cur, rem)` (R281), the result layout
(R288), the commands `PAD.ALIGN4` (R282), `SCTP.CHUNK.NEXT` (R284), `SCTP.CHUNK.FRAME` (R290), and the rows of
`CHUNK_TYPE_TABLE` (spec/30_encoding.md R118): what `SCTP.CHUNK.NEXT` does once it has dispatched on that row (R135,
log 1). -/

namespace Sys2Proof.Machine

/-- The framing of one chunk (45 R281 step 5): type, flags, `L`, kind. -/
structure Chunk where
  type : Byte
  flags : Byte
  length : Nat
  kind : ChunkKind
  deriving DecidableEq, Repr

/-- `W = Align4(L)`: the bytes the chunk occupies on the wire, whatever its type (45 R281, R285). -/
def chunkWireLen (c : Chunk) : Nat := align4 c.length

/-- Steps 3 to 5 of 45 R281 for a chunk whose type selects kind `kind`. -/
def chunkDispatched (p : Params) (rd : Nat → Byte) (kind : ChunkKind) (cur rem : Nat) : Except CmdError Chunk :=
  let L := (memRead2 rd (cur + 2)).toNat
  if L < 4 ∨ chunkLenOk p.chunkTypes kind L = false then .error .chunkLengthInvalid
  else if align4 L > rem then .error .chunkOverrun
  else .ok { type := rd cur, flags := rd (cur + 1), length := L, kind := kind }

/-- `Chunk(cur, rem)` of 45 R281. -/
def chunkAt (p : Params) (rd : Nat → Byte) (cur rem : Nat) : Except CmdError Chunk :=
  if rem < 4 then .error .chunkHeaderTruncated
  else
    match chunkKindOf p.chunkTypes (rd cur) with
    | none => .error .chunkTypeInvalid
    | some kind => chunkDispatched p rd kind cur rem

/-- The layout shared by `SCTP.CHUNK.NEXT` and `SCTP.CHUNK.FRAME` (45 R288). -/
def chunkRegs (cur rem : Nat) (c : Chunk) : Results :=
  { r0 := byteWord c.type, r1 := byteWord c.flags, r2 := toWord c.length, r3 := toWord (chunkKindNumber c.kind),
    r4 := toWord (cur + 4), r5 := toWord (c.length - 4), r6 := toWord (chunkWireLen c),
    r7 := toWord (pad4 c.length), r8 := toWord (cur + chunkWireLen c), r9 := toWord (rem - chunkWireLen c),
    r10 := flagWord (rem - chunkWireLen c == 0) }

/-- The rule of `PAD.ALIGN4` (45 R282): no region, no access to `BUF`. -/
def padAlign4Rule (o : Operands) : Rule :=
  if o.len > 0xFFFFFFFC then .error .operandRange
  else .ok { regs := { r0 := toWord (align4 o.len), r1 := toWord (pad4 o.len) } }

/-- The rule of `SCTP.CHUNK.NEXT` (45 R284). -/
def sctpChunkNextRule (p : Params) (o : Operands) (rd : Nat → Byte) : Rule :=
  guardRegion p o <|
    match chunkAt p rd o.base o.len with
    | .error e => .error e
    | .ok c => .ok { regs := chunkRegs o.base o.len c }

/-- The rule of a row of `CHUNK_TYPE_TABLE`: `SCTP.CHUNK.NEXT` on a chunk whose type selects that row (30 R118, R135). -/
def chunkRowRule (kind : ChunkKind) (p : Params) (o : Operands) (rd : Nat → Byte) : Rule :=
  guardRegion p o <|
    if o.len < 4 then .error .chunkHeaderTruncated
    else
      match chunkDispatched p rd kind o.base o.len with
      | .error e => .error e
      | .ok c => .ok { regs := chunkRegs o.base o.len c }

/-- The stores of `SCTP.CHUNK.FRAME` (45 R290, 20 R87): type, flags, `L` big-endian, zero padding. -/
def frameCells (cur : Nat) (c : Chunk) : List Host.Cell :=
  (cur, c.type) :: (cur + 1, c.flags) :: cells2 (cur + 2) (BitVec.ofNat 16 c.length)
    ++ zeroCells (cur + c.length) (pad4 c.length)

/-- The rule of `SCTP.CHUNK.FRAME` (45 R290). -/
def sctpChunkFrameRule (p : Params) (o : Operands) : Rule :=
  guardRegion p o <|
    if o.frameUpper ≠ 0#16 then .error .operandRange
    else
      match chunkKindOf p.chunkTypes o.frameType with
      | none => .error .chunkTypeInvalid
      | some kind =>
        if o.valueLen > 65531 then .error .chunkValueTooLong
        else if chunkLenOk p.chunkTypes kind (4 + o.valueLen) = false then .error .chunkLengthInvalid
        else if align4 (4 + o.valueLen) > o.len then .error .chunkOverrun
        else
          let c : Chunk := { type := o.frameType, flags := o.frameFlags, length := 4 + o.valueLen, kind := kind }
          .ok { regs := chunkRegs o.base o.len c, stores := frameCells o.base c }

/-- `PAD.ALIGN4` (45 R282). -/
def execPadAlign4 (s : State) : Host.Outcome State Fault Refusal :=
  complete s (padAlign4Rule s.ops)

/-- `SCTP.CHUNK.NEXT` (45 R284). -/
def execSctpChunkNext (s : State) : Host.Outcome State Fault Refusal :=
  complete s (sctpChunkNextRule s.params s.ops s.byte)

/-- `SCTP.CHUNK.FRAME` (45 R290). -/
def execSctpChunkFrame (s : State) : Host.Outcome State Fault Refusal :=
  complete s (sctpChunkFrameRule s.params s.ops)

/-- Row `SCTP.CHUNK.TYPE.DATA`: kind 0 (30 R118). -/
def execChunkTypeData (s : State) : Host.Outcome State Fault Refusal :=
  complete s (chunkRowRule .data s.params s.ops s.byte)

/-- Row `SCTP.CHUNK.TYPE.INIT`: kind 1 (30 R118). -/
def execChunkTypeInit (s : State) : Host.Outcome State Fault Refusal :=
  complete s (chunkRowRule .init s.params s.ops s.byte)

/-- Row `SCTP.CHUNK.TYPE.INIT_ACK`: kind 2 (30 R118). -/
def execChunkTypeInitAck (s : State) : Host.Outcome State Fault Refusal :=
  complete s (chunkRowRule .initAck s.params s.ops s.byte)

/-- Row `SCTP.CHUNK.TYPE.SACK`: kind 3 (30 R118). -/
def execChunkTypeSack (s : State) : Host.Outcome State Fault Refusal :=
  complete s (chunkRowRule .sack s.params s.ops s.byte)

/-- Row `SCTP.CHUNK.TYPE.HEARTBEAT`: kind 4 (30 R118). -/
def execChunkTypeHeartbeat (s : State) : Host.Outcome State Fault Refusal :=
  complete s (chunkRowRule .heartbeat s.params s.ops s.byte)

/-- Row `SCTP.CHUNK.TYPE.HEARTBEAT_ACK`: kind 5 (30 R118). -/
def execChunkTypeHeartbeatAck (s : State) : Host.Outcome State Fault Refusal :=
  complete s (chunkRowRule .heartbeatAck s.params s.ops s.byte)

/-- Row `SCTP.CHUNK.TYPE.ABORT`: kind 6 (30 R118). -/
def execChunkTypeAbort (s : State) : Host.Outcome State Fault Refusal :=
  complete s (chunkRowRule .abort s.params s.ops s.byte)

/-- Row `SCTP.CHUNK.TYPE.SHUTDOWN`: kind 7 (30 R118). -/
def execChunkTypeShutdown (s : State) : Host.Outcome State Fault Refusal :=
  complete s (chunkRowRule .shutdown s.params s.ops s.byte)

/-- Row `SCTP.CHUNK.TYPE.SHUTDOWN_ACK`: kind 8 (30 R118). -/
def execChunkTypeShutdownAck (s : State) : Host.Outcome State Fault Refusal :=
  complete s (chunkRowRule .shutdownAck s.params s.ops s.byte)

/-- Row `SCTP.CHUNK.TYPE.ERROR`: kind 9 (30 R118). -/
def execChunkTypeError (s : State) : Host.Outcome State Fault Refusal :=
  complete s (chunkRowRule .error s.params s.ops s.byte)

/-- Row `SCTP.CHUNK.TYPE.COOKIE_ECHO`: kind 10 (30 R118). -/
def execChunkTypeCookieEcho (s : State) : Host.Outcome State Fault Refusal :=
  complete s (chunkRowRule .cookieEcho s.params s.ops s.byte)

/-- Row `SCTP.CHUNK.TYPE.COOKIE_ACK`: kind 11 (30 R118). -/
def execChunkTypeCookieAck (s : State) : Host.Outcome State Fault Refusal :=
  complete s (chunkRowRule .cookieAck s.params s.ops s.byte)

/-- Row `SCTP.CHUNK.TYPE.RESERVED_1`: kind 13, recognised and framed by the generic rule (30 R118, R120). -/
def execChunkTypeReserved1 (s : State) : Host.Outcome State Fault Refusal :=
  complete s (chunkRowRule .reserved1 s.params s.ops s.byte)

/-- Row `SCTP.CHUNK.TYPE.RESERVED_2`: kind 14, recognised and framed by the generic rule (30 R118, R120). -/
def execChunkTypeReserved2 (s : State) : Host.Outcome State Fault Refusal :=
  complete s (chunkRowRule .reserved2 s.params s.ops s.byte)

/-- Row `SCTP.CHUNK.TYPE.SHUTDOWN_COMPLETE`: kind 12 (30 R118). -/
def execChunkTypeShutdownComplete (s : State) : Host.Outcome State Fault Refusal :=
  complete s (chunkRowRule .shutdownComplete s.params s.ops s.byte)

end Sys2Proof.Machine
end

