-- ==== Sys2Proof/Machine/OnesComplement.lean ====
section
/-! DEFINITION. The one's-complement 16-bit checksum unit: its arithmetic (spec/40_ones_complement.md R141, R142, R147)
and the commands `OC16.GEN` (R144) and `OC16.VAL` (R145). -/

namespace Sys2Proof.Machine

/-- The sum of the first `k` big-endian words from `base` on, a natural number (40 R141). -/
def ocSumWords (rd : Nat → Byte) (base : Nat) : Nat → Nat
  | 0 => 0
  | k + 1 => ocSumWords rd base k + (memRead2 rd (base + 2 * k)).toNat

/-- `OcSum(base, n)` of 40 R141, for an even number of bytes `n`. -/
def ocSum (rd : Nat → Byte) (base n : Nat) : Nat := ocSumWords rd base (n / 2)

/-- One fold of the carries: `(S mod 65536) + (S div 65536)` (40 R141). -/
def foldOnce (S : Nat) : Nat := S % 65536 + S / 65536

/-- `Fold(S)` of 40 R141: two folds. -/
def fold (S : Nat) : Nat := foldOnce (foldOnce S)

/-- `OcGen(base, n)` of 40 R142. -/
def ocGen (rd : Nat → Byte) (base n : Nat) : Nat := 0xFFFF - fold (ocSum rd base n)

/-- `OcVal(base, n)` of 40 R142. -/
def ocVal (rd : Nat → Byte) (base n : Nat) : Bool := fold (ocSum rd base n) == 0xFFFF

/-- `OcSumZ(base, n, z)` of 40 R147: the word at `base + z` read as zero. -/
def ocSumZ (rd : Nat → Byte) (base n z : Nat) : Nat := ocSum rd base n - (memRead2 rd (base + z)).toNat

/-- `OcGenZ(base, n, z)` of 40 R147. -/
def ocGenZ (rd : Nat → Byte) (base n z : Nat) : Nat := 0xFFFF - fold (ocSumZ rd base n z)

/-- Range and even-length checks of the two commands, in the order of 40 R144, R145. -/
def oc16Guard (p : Params) (o : Operands) (d : Done) : Rule :=
  guardRegion p o <| if o.len % 2 = 1 then .error .oddLength else .ok d

/-- The rule of `OC16.GEN` (40 R144). -/
def oc16GenRule (p : Params) (o : Operands) (rd : Nat → Byte) : Rule :=
  oc16Guard p o
    { regs := { r0 := toWord (ocGen rd o.base o.len), r1 := toWord (fold (ocSum rd o.base o.len)) } }

/-- The rule of `OC16.VAL` (40 R145): a failed validation is a result, not an error (60 R335). -/
def oc16ValRule (p : Params) (o : Operands) (rd : Nat → Byte) : Rule :=
  oc16Guard p o
    { regs := { r0 := flagWord (ocVal rd o.base o.len), r1 := toWord (fold (ocSum rd o.base o.len)) } }

/-- `OC16.GEN` (40 R144). -/
def execOc16Gen (s : State) : Host.Outcome State Fault Refusal :=
  complete s (oc16GenRule s.params s.ops s.byte)

/-- `OC16.VAL` (40 R145). -/
def execOc16Val (s : State) : Host.Outcome State Fault Refusal :=
  complete s (oc16ValRule s.params s.ops s.byte)

end Sys2Proof.Machine
end

