-- ==== Sys2Proof/Machine/Icmp.lean ====
section
/-! DEFINITION. The ICMP message parser (spec/43_icmp.md): the message length (R211), the checks (R212), the result
layout (R216), the commands `ICMP.PARSE` (R218) and `ICMP.CSUM.PATCH` (R222), and the rows of `ICMP_TYPE_TABLE`
(spec/30_encoding.md R112): what `ICMP.PARSE` does once it has dispatched on that row (R135, log 1). -/

namespace Sys2Proof.Machine

/-- `P = 4 + ICMP_ERR_REGION_BYTES` (30 R107). -/
def icmpOrigOffset (p : Params) : Nat := 4 + p.icmpErrRegion

/-- `origIHL × 4`, from bits 3:0 of the byte at offset `P` (30 R107). -/
def icmpOrigHdrLen (p : Params) (rd : Nat → Byte) (base : Nat) : Nat :=
  ((rd (base + icmpOrigOffset p)).extractLsb' 0 4).toNat * 4

/-- Step 3 of 43 R212: the kind's length rule, giving `MLEN`. -/
def icmpLength (p : Params) (rd : Nat → Byte) (kind : IcmpKind) (base len : Nat) : Except CmdError Nat :=
  match kind with
  | .echo => if len < 8 then .error .icmpTruncated else .ok len
  | .timestamp => if len < 20 then .error .icmpTruncated else .ok 20
  | .information => if len < 8 then .error .icmpTruncated else .ok 8
  | .destUnreachable | .sourceQuench | .redirect | .timeExceeded | .parameterProblem =>
    if len < icmpOrigOffset p + 1 then .error .icmpTruncated
    else if ((rd (base + icmpOrigOffset p)).extractLsb' 0 4).toNat < 5 then .error .icmpEmbeddedIhlInvalid
    else
      let mlen := icmpOrigOffset p + icmpOrigHdrLen p rd base + 8
      if len < mlen then .error .icmpTruncated else .ok mlen

/-- Steps 3 to 5 of 43 R212 for a message of kind `kind`: length, even length, checksum. -/
def icmpCheck (p : Params) (rd : Nat → Byte) (kind : IcmpKind) (base len : Nat) : Except CmdError Nat :=
  match icmpLength p rd kind base len with
  | .error e => .error e
  | .ok mlen =>
    if mlen % 2 = 1 then .error .oddLength
    else if (memRead2 rd (base + 2)).toNat ≠ ocGenZ rd base mlen 2 then .error .messageChecksumInvalid
    else .ok mlen

/-- The columns of 43 R216. -/
def icmpRegs (p : Params) (rd : Nat → Byte) (kind : IcmpKind) (reply : Bool) (base mlen : Nat) : Results :=
  let common : Results :=
    { r0 := byteWord (rd base), r1 := byteWord (rd (base + 1)), r2 := halfWord (memRead2 rd (base + 2)),
      r3 := toWord (icmpKindNumber kind), r4 := flagWord reply, r5 := toWord mlen, r6 := memRead4 rd (base + 4) }
  match kind with
  | .echo => { common with r8 := toWord (base + 8), r9 := toWord (mlen - 8) }
  | .timestamp =>
    { common with
      r8 := toWord (base + 8), r9 := 12#32,
      r12 := memRead4 rd (base + 8), r13 := memRead4 rd (base + 12), r14 := memRead4 rd (base + 16) }
  | .information => { common with r8 := toWord (base + 8) }
  | .destUnreachable | .sourceQuench | .redirect | .timeExceeded | .parameterProblem =>
    { common with
      r4 := 0#32
      r7 := if p.icmpErrRegion = 8 then memRead4 rd (base + 8) else 0#32
      r8 := toWord (base + icmpOrigOffset p), r9 := toWord (icmpOrigHdrLen p rd base),
      r10 := toWord (base + icmpOrigOffset p + icmpOrigHdrLen p rd base), r11 := 8#32 }

/-- What follows the dispatch on a row of `ICMP_TYPE_TABLE` (43 R212 steps 3 to 6, R216). -/
def icmpDispatched (p : Params) (o : Operands) (rd : Nat → Byte) (kind : IcmpKind) (reply : Bool) : Rule :=
  match icmpCheck p rd kind o.base o.len with
  | .error e => .error e
  | .ok mlen => .ok { regs := icmpRegs p rd kind reply o.base mlen }

/-- Range check and step 1 of 43 R212, before the dispatch. -/
def icmpPrefix (p : Params) (o : Operands) (r : Rule) : Rule :=
  guardRegion p o <| if o.len < 4 then .error .icmpTruncated else r

/-- The rule of `ICMP.PARSE` (43 R218): dispatch on the type tag, then the row. -/
def icmpParseRule (p : Params) (o : Operands) (rd : Nat → Byte) : Rule :=
  icmpPrefix p o <|
    match icmpRowOf p.icmpTypes (rd o.base) with
    | none => .error .messageTypeInvalid
    | some row => icmpDispatched p o rd row.kind row.reply

/-- The rule of a row of `ICMP_TYPE_TABLE`: `ICMP.PARSE` of a message whose tag selects that row (30 R112, R135). -/
def icmpRowRule (kind : IcmpKind) (reply : Bool) (p : Params) (o : Operands) (rd : Nat → Byte) : Rule :=
  icmpPrefix p o (icmpDispatched p o rd kind reply)

/-- The rule of `ICMP.CSUM.PATCH` (43 R222): the type is not looked up. -/
def icmpCsumPatchRule (p : Params) (o : Operands) (rd : Nat → Byte) : Rule :=
  icmpPrefix p o <|
    if o.len % 2 = 1 then .error .oddLength
    else
      let c := ocGenZ rd o.base o.len 2
      .ok { regs := { r0 := toWord c }, stores := cells2 (o.base + 2) (BitVec.ofNat 16 c) }

/-- `ICMP.PARSE` (43 R218). -/
def execIcmpParse (s : State) : Host.Outcome State Fault Refusal :=
  complete s (icmpParseRule s.params s.ops s.byte)

/-- `ICMP.CSUM.PATCH` (43 R222). -/
def execIcmpCsumPatch (s : State) : Host.Outcome State Fault Refusal :=
  complete s (icmpCsumPatchRule s.params s.ops s.byte)

/-- Row `ICMP.TYPE.ECHO_REPLY`: kind 0, reply (30 R112, R106). -/
def execIcmpTypeEchoReply (s : State) : Host.Outcome State Fault Refusal :=
  complete s (icmpRowRule .echo true s.params s.ops s.byte)

/-- Row `ICMP.TYPE.DEST_UNREACHABLE`: kind 1 (30 R112, R107). -/
def execIcmpTypeDestUnreachable (s : State) : Host.Outcome State Fault Refusal :=
  complete s (icmpRowRule .destUnreachable false s.params s.ops s.byte)

/-- Row `ICMP.TYPE.SOURCE_QUENCH`: kind 2 (30 R112, R107). -/
def execIcmpTypeSourceQuench (s : State) : Host.Outcome State Fault Refusal :=
  complete s (icmpRowRule .sourceQuench false s.params s.ops s.byte)

/-- Row `ICMP.TYPE.REDIRECT`: kind 3 (30 R112, R107). -/
def execIcmpTypeRedirect (s : State) : Host.Outcome State Fault Refusal :=
  complete s (icmpRowRule .redirect false s.params s.ops s.byte)

/-- Row `ICMP.TYPE.ECHO`: kind 0 (30 R112, R106). -/
def execIcmpTypeEcho (s : State) : Host.Outcome State Fault Refusal :=
  complete s (icmpRowRule .echo false s.params s.ops s.byte)

/-- Row `ICMP.TYPE.TIME_EXCEEDED`: kind 4 (30 R112, R107). -/
def execIcmpTypeTimeExceeded (s : State) : Host.Outcome State Fault Refusal :=
  complete s (icmpRowRule .timeExceeded false s.params s.ops s.byte)

/-- Row `ICMP.TYPE.PARAMETER_PROBLEM`: kind 5 (30 R112, R107). -/
def execIcmpTypeParameterProblem (s : State) : Host.Outcome State Fault Refusal :=
  complete s (icmpRowRule .parameterProblem false s.params s.ops s.byte)

/-- Row `ICMP.TYPE.TIMESTAMP`: kind 6 (30 R112, R108). -/
def execIcmpTypeTimestamp (s : State) : Host.Outcome State Fault Refusal :=
  complete s (icmpRowRule .timestamp false s.params s.ops s.byte)

/-- Row `ICMP.TYPE.TIMESTAMP_REPLY`: kind 6, reply (30 R112, R108). -/
def execIcmpTypeTimestampReply (s : State) : Host.Outcome State Fault Refusal :=
  complete s (icmpRowRule .timestamp true s.params s.ops s.byte)

/-- Row `ICMP.TYPE.INFO_REQUEST`: kind 7 (30 R112, R109). -/
def execIcmpTypeInfoRequest (s : State) : Host.Outcome State Fault Refusal :=
  complete s (icmpRowRule .information false s.params s.ops s.byte)

/-- Row `ICMP.TYPE.INFO_REPLY`: kind 7, reply (30 R112, R109). -/
def execIcmpTypeInfoReply (s : State) : Host.Outcome State Fault Refusal :=
  complete s (icmpRowRule .information true s.params s.ops s.byte)

end Sys2Proof.Machine
end

