-- ==== Sys2Proof/Machine/Ipv4.lean ====
section
/-! DEFINITION. The IPv4 header parser (spec/42_ipv4.md): the shared decode `Ip4Header` (R181), the field layout
(spec/30_encoding.md R100) and the commands `IP4.HDR.PARSE` (R186), `IP4.DGRAM.PARSE` (R188), `IP4.CSUM.PATCH` (R190). -/

namespace Sys2Proof.Machine

/-- The fields of an IPv4 header (30 R100). -/
structure Ip4Fields where
  version : BitVec 4
  ihl : BitVec 4
  tos : Byte
  totalLength : Half
  identification : Half
  flags : BitVec 3
  fragOffset : BitVec 13
  ttl : Byte
  protocol : Byte
  headerChecksum : Half
  source : Word
  destination : Word
  deriving DecidableEq, Repr

/-- Cutting the fields out of the 20 bytes from `base` on (30 R100). -/
def ip4Fields (rd : Nat → Byte) (base : Nat) : Ip4Fields :=
  { version := (rd base).extractLsb' 4 4
    ihl := (rd base).extractLsb' 0 4
    tos := rd (base + 1)
    totalLength := memRead2 rd (base + 2)
    identification := memRead2 rd (base + 4)
    flags := (memRead2 rd (base + 6)).extractLsb' 13 3
    fragOffset := (memRead2 rd (base + 6)).extractLsb' 0 13
    ttl := rd (base + 8)
    protocol := rd (base + 9)
    headerChecksum := memRead2 rd (base + 10)
    source := memRead4 rd (base + 12)
    destination := memRead4 rd (base + 16) }

/-- `hdrLen = IHL × 4` (30 R94, R101). -/
def ip4HdrLen (h : Ip4Fields) : Nat := h.ihl.toNat * 4

/-- `Ip4Header(base, len)` of 42 R181: the checks in its order, the first that fails ends the command. -/
def ip4Header (rd : Nat → Byte) (base len : Nat) : Except CmdError Ip4Fields :=
  if len < 20 then .error .ipHeaderTruncated
  else
    let h := ip4Fields rd base
    if h.version ≠ 4#4 then .error .ipVersionInvalid
    else if h.ihl.toNat < 5 then .error .ipIhlInvalid
    else if ip4HdrLen h > len then .error .ipHeaderOverrun
    else if h.headerChecksum.toNat ≠ ocGenZ rd base (ip4HdrLen h) 10 then .error .headerChecksumInvalid
    else if h.totalLength.toNat < ip4HdrLen h then .error .ipTotalLengthInvalid
    else .ok h

/-- The result registers of the two parse commands (42 R186). -/
def ip4Regs (base : Nat) (h : Ip4Fields) : Results :=
  { r0 := h.version.setWidth 32, r1 := h.ihl.setWidth 32, r2 := byteWord h.tos, r3 := halfWord h.totalLength,
    r4 := halfWord h.identification, r5 := h.flags.setWidth 32, r6 := h.fragOffset.setWidth 32, r7 := byteWord h.ttl,
    r8 := byteWord h.protocol, r9 := halfWord h.headerChecksum, r10 := h.source, r11 := h.destination,
    r12 := toWord (base + 20), r13 := toWord (ip4HdrLen h - 20),
    r14 := toWord (base + ip4HdrLen h), r15 := toWord (h.totalLength.toNat - ip4HdrLen h) }

/-- The rule of `IP4.HDR.PARSE` (42 R186). -/
def ip4HdrParseRule (p : Params) (o : Operands) (rd : Nat → Byte) : Rule :=
  guardRegion p o <|
    match ip4Header rd o.base o.len with
    | .error e => .error e
    | .ok h => .ok { regs := ip4Regs o.base h }

/-- The rule of `IP4.DGRAM.PARSE` (42 R188). -/
def ip4DgramParseRule (p : Params) (o : Operands) (rd : Nat → Byte) : Rule :=
  guardRegion p o <|
    match ip4Header rd o.base o.len with
    | .error e => .error e
    | .ok h =>
      if o.len < h.totalLength.toNat then .error .ipDatagramTruncated
      else .ok { regs := ip4Regs o.base h }

/-- The rule of `IP4.CSUM.PATCH` (42 R190): neither the version nor `totalLength` is checked. -/
def ip4CsumPatchRule (p : Params) (o : Operands) (rd : Nat → Byte) : Rule :=
  guardRegion p o <|
    if o.len < 20 then .error .ipHeaderTruncated
    else
      let h := ip4Fields rd o.base
      if h.ihl.toNat < 5 then .error .ipIhlInvalid
      else if ip4HdrLen h > o.len then .error .ipHeaderOverrun
      else
        let c := ocGenZ rd o.base (ip4HdrLen h) 10
        .ok { regs := { r0 := toWord c, r1 := toWord (ip4HdrLen h) },
              stores := cells2 (o.base + 10) (BitVec.ofNat 16 c) }

/-- `IP4.HDR.PARSE` (42 R186). -/
def execIp4HdrParse (s : State) : Host.Outcome State Fault Refusal :=
  complete s (ip4HdrParseRule s.params s.ops s.byte)

/-- `IP4.DGRAM.PARSE` (42 R188). -/
def execIp4DgramParse (s : State) : Host.Outcome State Fault Refusal :=
  complete s (ip4DgramParseRule s.params s.ops s.byte)

/-- `IP4.CSUM.PATCH` (42 R190). -/
def execIp4CsumPatch (s : State) : Host.Outcome State Fault Refusal :=
  complete s (ip4CsumPatchRule s.params s.ops s.byte)

end Sys2Proof.Machine
end

