-- ==== Sys2Proof/Machine/Sctp.lean ====
section
/-! DEFINITION. The SCTP common header and packet (spec/44_sctp_packet.md): the checks of `SctpPacket` (R253) with the
chunk walk, and the commands `SCTP.HDR.PARSE` (R254), `SCTP.PKT.CHECK` (R256), `SCTP.PKT.WALK` (R258),
`SCTP.CSUM.PATCH` (R262). -/

namespace Sys2Proof.Machine

/-- The chunk walk of 44 R253 step 3 from `cur` with `rem` bytes left, counting from `n`. Each chunk takes at least 4
bytes (70 R390), so `fuel = rem` steps always reach `rem = 0`; with `fuel = 0` there is then nothing left to walk. -/
def walkChunks (p : Params) (rd : Nat → Byte) : Nat → Nat → Nat → Nat → Except CmdError Nat
  | 0, _, _, n => .ok n
  | fuel + 1, cur, rem, n =>
    if rem = 0 then .ok n
    else
      match chunkAt p rd cur rem with
      | .error e => .error e
      | .ok c => walkChunks p rd fuel (cur + chunkWireLen c) (rem - chunkWireLen c) (n + 1)

/-- The header fields in `R0..R5` (44 R254). -/
def sctpHdrRegs (rd : Nat → Byte) (base len : Nat) : Results :=
  { r0 := halfWord (memRead2 rd base), r1 := halfWord (memRead2 rd (base + 2)), r2 := memRead4 rd (base + 4),
    r3 := memRead4 rd (base + 8), r4 := toWord (base + 12), r5 := toWord (len - 12) }

/-- The CRC test of 44 R253 step 2: stored field at bytes 8 to 11 against the computed value. -/
def sctpCrcOk (rd : Nat → Byte) (base len : Nat) : Bool :=
  memRead4 rd (base + 8) == crc32c rd base len 8

/-- The rule of `SCTP.HDR.PARSE` (44 R254): the checksum is reported, not checked. -/
def sctpHdrParseRule (p : Params) (o : Operands) (rd : Nat → Byte) : Rule :=
  guardRegion p o <|
    if o.len < 12 then .error .sctpHeaderTruncated
    else .ok { regs := sctpHdrRegs rd o.base o.len }

/-- The rule of `SCTP.PKT.CHECK` (44 R256, R253 with `walk = false`). -/
def sctpPktCheckRule (p : Params) (o : Operands) (rd : Nat → Byte) : Rule :=
  guardRegion p o <|
    if o.len < 12 then .error .sctpHeaderTruncated
    else if sctpCrcOk rd o.base o.len = false then .error .packetChecksumInvalid
    else .ok { regs := sctpHdrRegs rd o.base o.len }

/-- The rule of `SCTP.PKT.WALK` (44 R258, R253 with `walk = true`): header, CRC, then the chunks in packet order. -/
def sctpPktWalkRule (p : Params) (o : Operands) (rd : Nat → Byte) : Rule :=
  guardRegion p o <|
    if o.len < 12 then .error .sctpHeaderTruncated
    else if sctpCrcOk rd o.base o.len = false then .error .packetChecksumInvalid
    else
      match walkChunks p rd (o.len - 12) (o.base + 12) (o.len - 12) 0 with
      | .error e => .error e
      | .ok n => .ok { regs := { sctpHdrRegs rd o.base o.len with r6 := toWord n } }

/-- The rule of `SCTP.CSUM.PATCH` (44 R262). -/
def sctpCsumPatchRule (p : Params) (o : Operands) (rd : Nat → Byte) : Rule :=
  guardRegion p o <|
    if o.len < 12 then .error .sctpHeaderTruncated
    else
      let c := crc32c rd o.base o.len 8
      .ok { regs := { r0 := c }, stores := cells4 (o.base + 8) c }

/-- `SCTP.HDR.PARSE` (44 R254). -/
def execSctpHdrParse (s : State) : Host.Outcome State Fault Refusal :=
  complete s (sctpHdrParseRule s.params s.ops s.byte)

/-- `SCTP.PKT.CHECK` (44 R256). -/
def execSctpPktCheck (s : State) : Host.Outcome State Fault Refusal :=
  complete s (sctpPktCheckRule s.params s.ops s.byte)

/-- `SCTP.PKT.WALK` (44 R258). -/
def execSctpPktWalk (s : State) : Host.Outcome State Fault Refusal :=
  complete s (sctpPktWalkRule s.params s.ops s.byte)

/-- `SCTP.CSUM.PATCH` (44 R262). -/
def execSctpCsumPatch (s : State) : Host.Outcome State Fault Refusal :=
  complete s (sctpCsumPatchRule s.params s.ops s.byte)

end Sys2Proof.Machine
end

