-- ==== Sys2Proof/Machine/System.lean ====
section
/-! DEFINITION. The system commands (spec/46_system.md): `NOP` (R321), `SRST` (R322) and the completion of an illegal
command value (R324). -/

namespace Sys2Proof.Machine

/-- `NOP` (46 R321): a completion with every result register 0. -/
def execNop (s : State) : Host.Outcome State Fault Refusal :=
  complete s (.ok {})

/-- `SRST` (46 R322): its own completion step, in place of the general one of 60 R340. -/
def execSrst (s : State) : Host.Outcome State Fault Refusal :=
  .next (softReset s)

/-- The completion of a `CMD` value that is no command (46 R324): `OperandInvalid.IllegalCommand`. -/
def execIllegal (s : State) : Host.Outcome State Fault Refusal :=
  complete s (.error .illegalCommand)

end Sys2Proof.Machine
end

