-- ==== Sys2Proof/Machine/Dispatch.lean ====
section
/-! DEFINITION. One arm for each row of spec/opcode_table.json. The arms of the command rows are the completion steps of
the commands (spec/60_exceptions.md R340); the arms of the type-tag rows are what the dispatching command does on that row
(spec/30_encoding.md R135, log 1). -/

namespace Sys2Proof.Machine

def exec (i : Instr) (s : State) : Host.Outcome State Fault Refusal :=
  match i with
  | .nop => Sys2Proof.Machine.execNop s
  | .oc16Gen => Sys2Proof.Machine.execOc16Gen s
  | .oc16Val => Sys2Proof.Machine.execOc16Val s
  | .crc32cGen => Sys2Proof.Machine.execCrc32cGen s
  | .crc32cVal => Sys2Proof.Machine.execCrc32cVal s
  | .padAlign4 => Sys2Proof.Machine.execPadAlign4 s
  | .ip4HdrParse => Sys2Proof.Machine.execIp4HdrParse s
  | .ip4DgramParse => Sys2Proof.Machine.execIp4DgramParse s
  | .ip4CsumPatch => Sys2Proof.Machine.execIp4CsumPatch s
  | .icmpParse => Sys2Proof.Machine.execIcmpParse s
  | .icmpCsumPatch => Sys2Proof.Machine.execIcmpCsumPatch s
  | .sctpHdrParse => Sys2Proof.Machine.execSctpHdrParse s
  | .sctpPktCheck => Sys2Proof.Machine.execSctpPktCheck s
  | .sctpPktWalk => Sys2Proof.Machine.execSctpPktWalk s
  | .sctpCsumPatch => Sys2Proof.Machine.execSctpCsumPatch s
  | .sctpChunkNext => Sys2Proof.Machine.execSctpChunkNext s
  | .sctpChunkFrame => Sys2Proof.Machine.execSctpChunkFrame s
  | .srst => Sys2Proof.Machine.execSrst s
  | .icmpTypeEchoReply => Sys2Proof.Machine.execIcmpTypeEchoReply s
  | .icmpTypeDestUnreachable => Sys2Proof.Machine.execIcmpTypeDestUnreachable s
  | .icmpTypeSourceQuench => Sys2Proof.Machine.execIcmpTypeSourceQuench s
  | .icmpTypeRedirect => Sys2Proof.Machine.execIcmpTypeRedirect s
  | .icmpTypeEcho => Sys2Proof.Machine.execIcmpTypeEcho s
  | .icmpTypeTimeExceeded => Sys2Proof.Machine.execIcmpTypeTimeExceeded s
  | .icmpTypeParameterProblem => Sys2Proof.Machine.execIcmpTypeParameterProblem s
  | .icmpTypeTimestamp => Sys2Proof.Machine.execIcmpTypeTimestamp s
  | .icmpTypeTimestampReply => Sys2Proof.Machine.execIcmpTypeTimestampReply s
  | .icmpTypeInfoRequest => Sys2Proof.Machine.execIcmpTypeInfoRequest s
  | .icmpTypeInfoReply => Sys2Proof.Machine.execIcmpTypeInfoReply s
  | .chunkTypeData => Sys2Proof.Machine.execChunkTypeData s
  | .chunkTypeInit => Sys2Proof.Machine.execChunkTypeInit s
  | .chunkTypeInitAck => Sys2Proof.Machine.execChunkTypeInitAck s
  | .chunkTypeSack => Sys2Proof.Machine.execChunkTypeSack s
  | .chunkTypeHeartbeat => Sys2Proof.Machine.execChunkTypeHeartbeat s
  | .chunkTypeHeartbeatAck => Sys2Proof.Machine.execChunkTypeHeartbeatAck s
  | .chunkTypeAbort => Sys2Proof.Machine.execChunkTypeAbort s
  | .chunkTypeShutdown => Sys2Proof.Machine.execChunkTypeShutdown s
  | .chunkTypeShutdownAck => Sys2Proof.Machine.execChunkTypeShutdownAck s
  | .chunkTypeError => Sys2Proof.Machine.execChunkTypeError s
  | .chunkTypeCookieEcho => Sys2Proof.Machine.execChunkTypeCookieEcho s
  | .chunkTypeCookieAck => Sys2Proof.Machine.execChunkTypeCookieAck s
  | .chunkTypeReserved1 => Sys2Proof.Machine.execChunkTypeReserved1 s
  | .chunkTypeReserved2 => Sys2Proof.Machine.execChunkTypeReserved2 s
  | .chunkTypeShutdownComplete => Sys2Proof.Machine.execChunkTypeShutdownComplete s

end Sys2Proof.Machine
end

