-- ==== Sys2Proof/Machine/Port.lean ====
section
/-! DEFINITION. The host port: the register map (spec/10_state.md R29, R36 to R38) and the host's accesses
(spec/20_memory.md R70 to R73), acceptance of a command among them (spec/60_exceptions.md R339). -/

namespace Sys2Proof.Machine

/-- `ID` (10 R36). -/
def idWord : Word := 0x53475401#32

/-- `CAP` (10 R37): `BUF_BYTES` in bits 16:0, bit 24 set when `ICMP_ERR_REGION_BYTES` is 8. -/
def capWord (p : Params) : Word :=
  0#7 ++ BitVec.ofBool (p.icmpErrRegion == 8) ++ 0#7 ++ BitVec.ofNat 17 p.bufBytes

/-- `R0..R15` in order (10 R24). -/
def Results.toList (r : Results) : List Word :=
  [r.r0, r.r1, r.r2, r.r3, r.r4, r.r5, r.r6, r.r7, r.r8, r.r9, r.r10, r.r11, r.r12, r.r13, r.r14, r.r15]

/-- The register at a 32-bit offset as the host reads it (10 R29, 20 R70): `CMD` and reserved offsets read 0. -/
def readReg (s : State) (o : Nat) : Word :=
  if o = 0x04 then s.status.word
  else if o = 0x08 then idWord
  else if o = 0x0C then capWord s.params
  else if o = 0x10 then s.ops.a0
  else if o = 0x14 then s.ops.a1
  else if o = 0x18 then s.ops.a2
  else if o = 0x1C then s.ops.a3
  else if 0x40 ≤ o ∧ o < 0x80 then s.res.toList.getD ((o - 0x40) / 4) 0#32
  else 0#32

/-- The registers a host write can change while idle, and whose writes are dropped while busy (20 R71, R72). -/
def writableReg (o : Nat) : Bool := o = 0x00 || o = 0x10 || o = 0x14 || o = 0x18 || o = 0x1C

/-- A host write of `v` at a 32-bit offset (20 R71, R72). -/
def writeReg (s : State) (o : Nat) (v : Word) : State :=
  if writableReg o = false then s
  else if s.status.busy then dropWrite s
  else if o = 0x00 then accept s v
  else if o = 0x10 then { s with ops := { s.ops with a0 := v } }
  else if o = 0x14 then { s with ops := { s.ops with a1 := v } }
  else if o = 0x18 then { s with ops := { s.ops with a2 := v } }
  else { s with ops := { s.ops with a3 := v } }

/-- A host byte read at window offset `0x10000 + j` (20 R73; beyond `BUF_BYTES` 0, 10 R38). -/
def readWindow (s : State) (j : Nat) : Word :=
  if j < s.params.bufBytes then byteWord (s.byte j) else 0#32

/-- A host byte write at window offset `0x10000 + j` (20 R72, R73; beyond `BUF_BYTES` ignored, 10 R38). -/
def writeWindow (s : State) (j : Nat) (b : Byte) : State :=
  if s.params.bufBytes ≤ j then s
  else if s.status.busy then dropWrite s
  else { s with buf := Memory.write s.buf j b }

/-- What the host reads is its own; the block's state does not change (20 R69, R70). -/
def receive (s : State) (v : Word) : State := { s with received := v :: s.received }

/-- One host access (20 R70 to R73); an access that does not exist on the port faults (log 9). -/
def hostAccess (a : Access) (s : State) : Host.Outcome State Fault Refusal :=
  if a.onPort = false then .fault .noSuchAccess
  else
    match a with
    | .read32 o => .next (receive s (readReg s o))
    | .write32 o v => .next (writeReg s o v)
    | .read8 o => .next (receive s (readWindow s (o - 0x10000)))
    | .write8 o b => .next (writeWindow s (o - 0x10000) b)

end Sys2Proof.Machine
end

