-- ==== Sys2Proof/Machine/Run.lean ====
section
/-! DEFINITION. The moves of the two agents (spec/10_state.md R20): the block's completion of its pending command
(spec/60_exceptions.md R340) and the host's next turn; and the placing of a word where the next step runs it. -/

namespace Sys2Proof.Machine

/-- The completion step of `PENDING` (60 R340): the command it encodes, or the illegal command (46 R324). -/
def completePending (s : State) : Host.Outcome State Fault Refusal :=
  match decodeCommand (fetchCommand s) with
  | .ok i => exec i s
  | .error _ => execIllegal s

/-- The block's turn: while busy its one enabled step (60 R340), else it is idle and nothing changes (10 R43, log 7). -/
def blockTurn (s : State) : Host.Outcome State Fault Refusal :=
  if s.status.busy then completePending s else .next s

/-- The next move (log 6). With no host turn left the block moves. A `WAIT` while busy lets the block complete and stays
to read `STATUS` (30 R130): the reads in between change nothing (20 R70). -/
def takeTurn (s : State) : Host.Outcome State Fault Refusal :=
  match s.agenda with
  | [] => blockTurn s
  | .block :: rest => blockTurn { s with agenda := rest }
  | .wait :: rest => if s.status.busy then blockTurn s else hostAccess (.read32 0x04) { s with agenda := rest }
  | .access a :: rest => hostAccess a { s with agenda := rest }
  | .hardwareReset :: rest => .next (hardwareReset { s with agenda := rest })

/-- A command word accepted, with no host turn before its completion (60 R339, log 8). -/
def placeCommand (s : State) (v : Word) : State := { accept s v with agenda := [] }

/-- A type tag where the dispatch of the command `v` reads it: the first of the 4 header bytes at `BUF[0]`, the others
zero, the region naming them (43 R212, 45 R281; log 8). -/
def placeTag (s : State) (v : Word) (t : Byte) : State :=
  placeCommand
    { s with
      ops := { s.ops with a0 := 0#32, a1 := 4#32 }
      buf := Memory.writeAll s.buf ((0, t) :: zeroCells 1 3) } v

/-- The dispatching command of a type tag, by the same first-row rule as `decodeTableWord` (log 2). -/
def dispatcherOf (t : Byte) : Word :=
  match decode (.icmpType8 t) with
  | .ok _ => 0x20#32
  | .error _ => 0x40#32

end Sys2Proof.Machine
end

