-- ==== Sys2Proof/Machine/Step.lean ====
section
/-! DEFINITION. One step of the machine, and the placing of an opcode-table word so that the next step runs it. -/

namespace Sys2Proof.Machine

/-- One step: the next move of the host, of the block or of the reset (10 R20, R43). -/
def step (s : State) : Host.Outcome State Fault Refusal := takeTurn s

/-- `s` with the opcode-table word `w` of `nbits` bits where the next step runs it (log 8): a command word is accepted
and pending; a type tag (8 bits) stands as the first byte of a 4-byte header at `BUF[0]`, with the command that dispatches
on it accepted and pending. -/
def State.withFetchWord (s : State) (nbits w : Nat) : State :=
  if nbits = 8 then placeTag s (dispatcherOf (BitVec.ofNat 8 w)) (BitVec.ofNat 8 w)
  else placeCommand s (BitVec.ofNat 32 w)

end Sys2Proof.Machine
end

