-- ==== Sys2Proof/Machine/Script.lean ====
section
/-! DEFINITION. Host scripts (spec/30_encoding.md R130, R131): each line's bus transactions, as turns of the host. -/

namespace Sys2Proof.Machine

/-- The port offset of a register an `RD` line names (10 R29). -/
def regOffset : RegName → Nat
  | .status => 0x04
  | .id => 0x08
  | .cap => 0x0C
  | .a i => 0x10 + 4 * i.val
  | .r i => 0x40 + 4 * i.val

/-- `WB off, bytes`: one byte write each, in ascending offset. -/
def writeBytes (off : Nat) : List Byte → List Turn
  | [] => []
  | b :: bs => .access (.write8 (0x10000 + off) b) :: writeBytes (off + 1) bs

/-- `RB off, n`: `n` byte reads in ascending offset. -/
def readBytes (off : Nat) : Nat → List Turn
  | 0 => []
  | n + 1 => .access (.read8 (0x10000 + off)) :: readBytes (off + 1) n

/-- `WR A0, …` to `WR A3, …` for the operands of a `RUN` line (30 R131). -/
def writeOperands (i : Nat) : List Word → List Turn
  | [] => []
  | v :: vs => .access (.write32 (0x10 + 4 * i) v) :: writeOperands (i + 1) vs

/-- `CMD mnemonic`: the opcode written to `CMD`. A type-tag row is no command and has no such line
(`Line.wellFormed` refuses it). -/
def writeCommand (c : Instr) : List Turn :=
  match commandWord c with
  | some w => [.access (.write32 0x00 w)]
  | none => []

/-- The turns of a script line (30 R130, R131). -/
def expandLine : Line → List Turn
  | .wr i v => [.access (.write32 (0x10 + 4 * i.val) v)]
  | .rd r => [.access (.read32 (regOffset r))]
  | .wb off bytes => writeBytes off bytes
  | .rb off n => readBytes off n
  | .cmd c => writeCommand c
  | .cmdw v => [.access (.write32 0x00 v)]
  | .wait => [.wait]
  | .run c ops => writeOperands 0 ops ++ writeCommand c ++ [.wait]
  | .w16 off v => writeBytes off [v.extractLsb' 8 8, v.extractLsb' 0 8]
  | .w32 off v => writeBytes off [v.extractLsb' 24 8, v.extractLsb' 16 8, v.extractLsb' 8 8, v.extractLsb' 0 8]
  | .zero off n => writeBytes off (List.replicate n 0#8)

/-- A script "executed top to bottom" (30 R130), after whatever the host still has to do. -/
def withScript (s : State) (lines : List Line) : State :=
  { s with agenda := s.agenda ++ lines.flatMap expandLine }

end Sys2Proof.Machine
end

