-- ==== Sys2Proof/Safety.lean ====
section
/-! DEFINITION. What a well-behaved state is: the legal combinations of `STATUS` (spec/10_state.md R31), cleared results
after an error (spec/60_exceptions.md R341), legal parameters (spec/00_scope.md R5) and a canonical buffer. -/

namespace Sys2Proof.Machine

/-- The error fields name a cause of 60 R332 with its own kind. -/
def Status.namesError (st : Status) : Prop :=
  ∃ e : CmdError, st.kind = kindNumber (errorKind e) ∧ st.code = errorCode e

/-- The legal combinations of 10 R31. -/
structure Status.Legal (st : Status) : Prop where
  /-- "`BUSY = 1` implies `DONE = 0`, `OK = 0`, `KIND = 0`, `CODE = 0`". -/
  busy : st.busy = true → st.done = false ∧ st.ok = false ∧ st.kind = 0#3 ∧ st.code = 0#8
  /-- "`DONE = 1` and `OK = 1` imply `KIND = 0` and `CODE = 0`". -/
  success : st.done = true → st.ok = true → st.kind = 0#3 ∧ st.code = 0#8
  /-- "`DONE = 1` and `OK = 0` imply `KIND ≠ 0` and `CODE ≠ 0`": they are those of one cause. -/
  failure : st.done = true → st.ok = false → st.namesError
  /-- "`DONE = 0` and `BUSY = 0` occur only between reset (or `SRST`) and the first acceptance": `STATUS` is 0. -/
  fresh : st.done = false → st.busy = false → st = {}

/-- The invariant of a run: legal parameters, legal `STATUS`, results cleared after an error, canonical buffer inside
`BUF_BYTES`. -/
structure State.Inv (s : State) : Prop where
  params : s.params.wellFormed = true
  status : s.status.Legal
  /-- "after an error all 16 are 0" (60 R341), until the next acceptance clears `DONE`. -/
  cleared : s.status.done = true → s.status.ok = false → s.res = {}
  canonical : Memory.wf s.buf = true
  within : Memory.within s.params.bufBytes s.buf = true

/-- Every host access still to come exists on the port (10 R29, 20 R61). -/
def State.agendaOnPort (s : State) : Prop :=
  ∀ a : Access, Turn.access a ∈ s.agenda → a.onPort = true

end Sys2Proof.Machine
end

