-- ==== Sys2Proof/Certificates/Slice0/Obligations.lean ====
section
/-! DEFINITION. The statements for the provers, each written from the numbered rules of spec/. The helpers of the first part
say what the rules say over plain natural numbers, apart from the model's own functions: big-endian fields, the two
checksums, the ordered checks of each command with the kind and code each one raises, the result columns. -/

namespace Sys2Proof.Spec

open Sys2Proof.Machine

/-! ### Fields, sums, CRC, padding -/

/-- `MemRead(a, 2)` as a number (00 R10). -/
def be2 (rd : Nat → Byte) (a : Nat) : Nat := 256 * (rd a).toNat + (rd (a + 1)).toNat

/-- `MemRead(a, 4)` as a number (00 R10). -/
def be4 (rd : Nat → Byte) (a : Nat) : Nat := 65536 * be2 rd a + be2 rd (a + 2)

/-- A natural number in a 32-bit register. -/
def reg (n : Nat) : Word := BitVec.ofNat 32 n

/-- The low eight bits of a number as a byte. -/
def octet (n : Nat) : Byte := BitVec.ofNat 8 n

/-- `OcSum` (40 R141): the big-endian words of the region, added up. -/
def wordSum (rd : Nat → Byte) (base n : Nat) : Nat := ((List.range (n / 2)).map fun k => be2 rd (base + 2 * k)).sum

/-- The same sum with the word at `base + z` counted as zero (40 R147). -/
def wordSumWithout (rd : Nat → Byte) (base n z : Nat) : Nat :=
  ((List.range (n / 2)).map fun k => if 2 * k = z then 0 else be2 rd (base + 2 * k)).sum

/-- `Fold` (40 R141). -/
def twoFolds (S : Nat) : Nat :=
  let f := S % 65536 + S / 65536
  f % 65536 + f / 65536

/-- The checksum with the word at `base + z` counted as zero (40 R147). -/
def checksumWithout (rd : Nat → Byte) (base n z : Nat) : Nat := 0xFFFF - twoFolds (wordSumWithout rd base n z)

/-- `T[i]` (41 R161) over numbers. -/
def crcEntry (i : Nat) : Nat := (List.range 8).foldl (fun c _ => if c % 2 = 1 then (c / 2) ^^^ 0x82F63B78 else c / 2) i

/-- One byte of the update of 41 R162 over numbers. -/
def crcStep (crc byte : Nat) : Nat := crcEntry ((crc ^^^ byte) % 256) ^^^ (crc / 256)

/-- `Crc32c(base, n, k)` (41 R162) over numbers. -/
def crcOf (rd : Nat → Byte) (base n k : Nat) : Nat :=
  0xFFFFFFFF - (List.range n).foldl
    (fun crc i => crcStep crc (if k ≤ i ∧ i < k + 4 then 0 else (rd (base + i)).toNat)) 0xFFFFFFFF

/-- The least multiple of 4 that is at least `n` (00 R12). -/
def roundUp (n : Nat) : Nat := n + (4 - n % 4) % 4

/-! ### The two completions (60 R340) -/

/-- Completion without error: these results, these byte stores in order, `OVR` and `OP` kept, all else kept. -/
def okState (s : State) (regs : Results) (stores : List Host.Cell) : State :=
  { s with
    res := regs
    buf := Memory.writeAll s.buf stores
    status := { busy := false, done := true, ok := true, ovr := s.status.ovr, kind := 0#3, code := 0#8, op := s.status.op } }

/-- Completion with an error of this kind and code: results 0, `OVR` and `OP` kept, all else kept. -/
def errState (s : State) (kind code : Nat) : State :=
  { s with
    res := {}
    status :=
      { busy := false, done := true, ok := false, ovr := s.status.ovr, kind := BitVec.ofNat 3 kind,
        code := BitVec.ofNat 8 code, op := s.status.op } }

/-- One check of a rule: when it fails, and the kind and code (60 R331, R332) it raises then. -/
abbrev Check := Bool × Nat × Nat

/-- Kind and code of the first check that fails (60 R345). -/
def firstFailure : List Check → Option (Nat × Nat)
  | [] => none
  | (failed, kind, code) :: rest => if failed then some (kind, code) else firstFailure rest

/-! ### The ordered checks of each command -/

/-- Base of the region, `A0`. -/
def base (s : State) : Nat := s.ops.a0.toNat

/-- Length of the region, `A1`. -/
def len (s : State) : Nat := s.ops.a1.toNat

/-- 20 R66: the region lies in `BUF`. -/
def rangeCheck (s : State) : Check := (decide (s.params.bufBytes < base s + len s), 7, 0x01)

/-- 40 R144, R145. -/
def oc16Checks (s : State) : List Check := [rangeCheck s, (len s % 2 == 1, 7, 0x03)]

/-- 41 R165, R166. -/
def crcChecks (s : State) : List Check := [rangeCheck s, (decide (len s < s.ops.a2.toNat + 4), 7, 0x04)]

/-- The IPv4 version nibble. -/
def version (s : State) : Nat := (s.byte (base s)).toNat / 16

/-- The IPv4 `IHL` nibble. -/
def ihl (s : State) : Nat := (s.byte (base s)).toNat % 16

/-- `totalLength`. -/
def totalLength (s : State) : Nat := be2 s.byte (base s + 2)

/-- 42 R181 in its order, after the range check. -/
def ip4Checks (s : State) : List Check :=
  [rangeCheck s,
   (decide (len s < 20), 2, 0x11),
   (version s != 4, 1, 0x10),
   (decide (ihl s < 5), 2, 0x12),
   (decide (len s < 4 * ihl s), 2, 0x13),
   (be2 s.byte (base s + 10) != checksumWithout s.byte (base s) (4 * ihl s) 10, 3, 0x14),
   (decide (totalLength s < 4 * ihl s), 2, 0x15)]

/-- 42 R190. -/
def ip4PatchChecks (s : State) : List Check :=
  [rangeCheck s, (decide (len s < 20), 2, 0x11), (decide (ihl s < 5), 2, 0x12), (decide (len s < 4 * ihl s), 2, 0x13)]

/-- The registers of 42 R186. -/
def ip4Columns (s : State) : Results :=
  let b := base s
  { r0 := reg (version s), r1 := reg (ihl s), r2 := reg (s.byte (b + 1)).toNat, r3 := reg (totalLength s),
    r4 := reg (be2 s.byte (b + 4)), r5 := reg (be2 s.byte (b + 6) / 8192), r6 := reg (be2 s.byte (b + 6) % 8192),
    r7 := reg (s.byte (b + 8)).toNat, r8 := reg (s.byte (b + 9)).toNat, r9 := reg (be2 s.byte (b + 10)),
    r10 := reg (be4 s.byte (b + 12)), r11 := reg (be4 s.byte (b + 16)),
    r12 := reg (b + 20), r13 := reg (4 * ihl s - 20), r14 := reg (b + 4 * ihl s),
    r15 := reg (totalLength s - 4 * ihl s) }

/-- `P = 4 + ICMP_ERR_REGION_BYTES` (30 R107). -/
def errorPrefix (s : State) : Nat := 4 + s.params.icmpErrRegion

/-- `origIHL` (30 R107). -/
def origIhl (s : State) : Nat := (s.byte (base s + errorPrefix s)).toNat % 16

/-- `MLEN` (43 R211). -/
def messageLength (s : State) : IcmpKind → Nat
  | .echo => len s
  | .timestamp => 20
  | .information => 8
  | .destUnreachable | .sourceQuench | .redirect | .timeExceeded | .parameterProblem =>
    errorPrefix s + 4 * origIhl s + 8

/-- 43 R212 step 3. -/
def lengthChecks (s : State) : IcmpKind → List Check
  | .echo => [(decide (len s < 8), 2, 0x21)]
  | .timestamp => [(decide (len s < 20), 2, 0x21)]
  | .information => [(decide (len s < 8), 2, 0x21)]
  | .destUnreachable | .sourceQuench | .redirect | .timeExceeded | .parameterProblem =>
    [(decide (len s < errorPrefix s + 1), 2, 0x21), (decide (origIhl s < 5), 2, 0x22),
     (decide (len s < errorPrefix s + 4 * origIhl s + 8), 2, 0x21)]

/-- 43 R212 steps 4 and 5. -/
def messageChecks (s : State) (kind : IcmpKind) : List Check :=
  [(messageLength s kind % 2 == 1, 7, 0x03),
   (be2 s.byte (base s + 2) != checksumWithout s.byte (base s) (messageLength s kind) 2, 3, 0x23)]

/-- The range check and 43 R212 step 1. -/
def icmpFirstChecks (s : State) : List Check := [rangeCheck s, (decide (len s < 4), 2, 0x21)]

/-- 43 R212 for a message of this kind, all steps but the dispatch. -/
def icmpKindChecks (s : State) (kind : IcmpKind) : List Check :=
  icmpFirstChecks s ++ lengthChecks s kind ++ messageChecks s kind

/-- The columns of 43 R216. -/
def icmpColumns (s : State) (kind : IcmpKind) (reply : Nat) : Results :=
  let b := base s
  let t := reg (s.byte b).toNat
  let c := reg (s.byte (b + 1)).toNat
  let f := reg (be2 s.byte (b + 2))
  let w := reg (be4 s.byte (b + 4))
  let errorReport (k : Nat) : Results :=
    { r0 := t, r1 := c, r2 := f, r3 := reg k, r5 := reg (errorPrefix s + 4 * origIhl s + 8), r6 := w,
      r7 := if s.params.icmpErrRegion = 8 then reg (be4 s.byte (b + 8)) else 0#32,
      r8 := reg (b + errorPrefix s), r9 := reg (4 * origIhl s), r10 := reg (b + errorPrefix s + 4 * origIhl s),
      r11 := 8#32 }
  match kind with
  | .echo => { r0 := t, r1 := c, r2 := f, r4 := reg reply, r5 := reg (len s), r6 := w, r8 := reg (b + 8), r9 := reg (len s - 8) }
  | .destUnreachable => errorReport 1
  | .sourceQuench => errorReport 2
  | .redirect => errorReport 3
  | .timeExceeded => errorReport 4
  | .parameterProblem => errorReport 5
  | .timestamp =>
    { r0 := t, r1 := c, r2 := f, r3 := 6#32, r4 := reg reply, r5 := 20#32, r6 := w, r8 := reg (b + 8), r9 := 12#32,
      r12 := reg (be4 s.byte (b + 8)), r13 := reg (be4 s.byte (b + 12)), r14 := reg (be4 s.byte (b + 16)) }
  | .information =>
    { r0 := t, r1 := c, r2 := f, r3 := 7#32, r4 := reg reply, r5 := 8#32, r6 := w, r8 := reg (b + 8) }

/-- 44 R253 step 1 after the range check. -/
def sctpHeaderChecks (s : State) : List Check := [rangeCheck s, (decide (len s < 12), 2, 0x30)]

/-- 44 R253 steps 1 and 2 after the range check. -/
def sctpPacketChecks (s : State) : List Check :=
  sctpHeaderChecks s ++ [(be4 s.byte (base s + 8) != crcOf s.byte (base s) (len s) 8, 3, 0x31)]

/-- The registers of 44 R254, with the chunk count of R258 in `R6`. -/
def sctpColumns (s : State) (chunks : Nat) : Results :=
  let b := base s
  { r0 := reg (be2 s.byte b), r1 := reg (be2 s.byte (b + 2)), r2 := reg (be4 s.byte (b + 4)),
    r3 := reg (be4 s.byte (b + 8)), r4 := reg (b + 12), r5 := reg (len s - 12), r6 := reg chunks }

/-- `ChunkLenOK` for the kind the table gives type `t`. -/
def lengthAllowed (p : Params) (t : Byte) (L : Nat) : Bool :=
  match chunkKindOf p.chunkTypes t with
  | none => true
  | some k => chunkLenOk p.chunkTypes k L

/-- 45 R281 in its order, for a chunk at `cur` with `rem` bytes left. -/
def chunkChecks (p : Params) (rd : Nat → Byte) (cur rem : Nat) : List Check :=
  [(decide (rem < 4), 2, 0x41),
   ((chunkKindOf p.chunkTypes (rd cur)).isNone, 1, 0x40),
   (decide (be2 rd (cur + 2) < 4) || !lengthAllowed p (rd cur) (be2 rd (cur + 2)), 2, 0x42),
   (decide (rem < roundUp (be2 rd (cur + 2))), 2, 0x43)]

/-- The layout of 45 R288 for a chunk of type `t`, flags `f`, length `L` and kind number `k`. -/
def chunkColumns (cur rem t f L k : Nat) : Results :=
  { r0 := reg t, r1 := reg f, r2 := reg L, r3 := reg k, r4 := reg (cur + 4), r5 := reg (L - 4), r6 := reg (roundUp L),
    r7 := reg (roundUp L - L), r8 := reg (cur + roundUp L), r9 := reg (rem - roundUp L),
    r10 := if rem = roundUp L then 1#32 else 0#32 }

/-- The walk of 44 R253 step 3 counts `n` chunks from `cur` with `rem` bytes left. -/
inductive WalkCounts (p : Params) (rd : Nat → Byte) : Nat → Nat → Nat → Prop
  | done (cur : Nat) : WalkCounts p rd cur 0 0
  | chunk {cur rem n : Nat} (more : 0 < rem) (framed : firstFailure (chunkChecks p rd cur rem) = none)
      (rest : WalkCounts p rd (cur + roundUp (be2 rd (cur + 2))) (rem - roundUp (be2 rd (cur + 2))) n) :
      WalkCounts p rd cur rem (n + 1)

/-- The walk of 44 R253 step 3 from `cur` with `rem` bytes left ends in the error `kind`, `code` of its first bad chunk. -/
inductive WalkFails (p : Params) (rd : Nat → Byte) : Nat → Nat → Nat → Nat → Prop
  | here {cur rem kind code : Nat} (more : 0 < rem)
      (bad : firstFailure (chunkChecks p rd cur rem) = some (kind, code)) : WalkFails p rd cur rem kind code
  | later {cur rem kind code : Nat} (more : 0 < rem) (framed : firstFailure (chunkChecks p rd cur rem) = none)
      (rest : WalkFails p rd (cur + roundUp (be2 rd (cur + 2))) (rem - roundUp (be2 rd (cur + 2))) kind code) :
      WalkFails p rd cur rem kind code

/-- `A2[15:8]`, the type to write (45 R290). -/
def frameType (s : State) : Nat := s.ops.a2.toNat / 256 % 256

/-- `A2[7:0]`, the flags to write (45 R290). -/
def frameFlags (s : State) : Nat := s.ops.a2.toNat % 256

/-- `L = 4 + A3` (45 R290). -/
def frameLength (s : State) : Nat := 4 + s.ops.a3.toNat

/-- 45 R290 in its order. -/
def frameChecks (s : State) : List Check :=
  [rangeCheck s,
   (s.ops.a2.toNat / 65536 != 0, 7, 0x01),
   ((chunkKindOf s.params.chunkTypes (octet (frameType s))).isNone, 1, 0x40),
   (decide (65531 < s.ops.a3.toNat), 2, 0x44),
   (!lengthAllowed s.params (octet (frameType s)) (frameLength s), 2, 0x42),
   (decide (len s < roundUp (frameLength s)), 2, 0x43)]

/-- The stores of 45 R290. -/
def frameStores (s : State) : List Host.Cell :=
  [(base s, octet (frameType s)), (base s + 1, octet (frameFlags s)),
   (base s + 2, octet (frameLength s / 256)), (base s + 3, octet (frameLength s % 256))]
  ++ (List.range (roundUp (frameLength s) - frameLength s)).map fun i => (base s + frameLength s + i, 0#8)

/-! ### Rows and offsets -/

/-- The 18 opcodes of 30 R92. -/
def opcodes : List Nat :=
  [0x00, 0x01, 0x02, 0x03, 0x04, 0x08, 0x10, 0x11, 0x12, 0x20, 0x21, 0x30, 0x31, 0x32, 0x33, 0x40, 0x41, 0x7F]

/-- The eleven `ICMP.TYPE.*` rows: constructor, tag, kind, `reply` (30 R112). -/
def icmpRows : List (Instr × Byte × IcmpKind × Bool) :=
  [(.icmpTypeEchoReply, 0, .echo, true), (.icmpTypeDestUnreachable, 3, .destUnreachable, false),
   (.icmpTypeSourceQuench, 4, .sourceQuench, false), (.icmpTypeRedirect, 5, .redirect, false),
   (.icmpTypeEcho, 8, .echo, false), (.icmpTypeTimeExceeded, 11, .timeExceeded, false),
   (.icmpTypeParameterProblem, 12, .parameterProblem, false), (.icmpTypeTimestamp, 13, .timestamp, false),
   (.icmpTypeTimestampReply, 14, .timestamp, true), (.icmpTypeInfoRequest, 15, .information, false),
   (.icmpTypeInfoReply, 16, .information, true)]

/-- The fifteen `SCTP.CHUNK.TYPE.*` rows: constructor, type, kind, kind number, smallest and largest `L` of the length
rule (30 R118). -/
def chunkRows : List (Instr × Byte × ChunkKind × Nat × Nat × Nat) :=
  [(.chunkTypeData, 0, .data, 0, 16, 65535), (.chunkTypeInit, 1, .init, 1, 20, 65535),
   (.chunkTypeInitAck, 2, .initAck, 2, 20, 65535), (.chunkTypeSack, 3, .sack, 3, 16, 65535),
   (.chunkTypeHeartbeat, 4, .heartbeat, 4, 4, 65535), (.chunkTypeHeartbeatAck, 5, .heartbeatAck, 5, 4, 65535),
   (.chunkTypeAbort, 6, .abort, 6, 4, 65535), (.chunkTypeShutdown, 7, .shutdown, 7, 8, 8),
   (.chunkTypeShutdownAck, 8, .shutdownAck, 8, 4, 65535), (.chunkTypeError, 9, .error, 9, 5, 65535),
   (.chunkTypeCookieEcho, 10, .cookieEcho, 10, 4, 65535), (.chunkTypeCookieAck, 11, .cookieAck, 11, 4, 65535),
   (.chunkTypeShutdownComplete, 14, .shutdownComplete, 12, 4, 4), (.chunkTypeReserved1, 12, .reserved1, 13, 4, 65535),
   (.chunkTypeReserved2, 13, .reserved2, 14, 4, 65535)]

/-- The lengths `L` that a length rule allows, in plain numbers (30 R118; the three forms: log 20). -/
def ruleAllows : LenRule → Nat → Prop
  | .atLeast n, L => n ≤ L
  | .moreThan n, L => n + 1 ≤ L
  | .exactly n, L => L = n

/-- The kind number of a chunk kind, by the table above. -/
def kindColumn (k : ChunkKind) : Nat :=
  match chunkRows.find? (fun r => r.2.2.1 == k) with
  | some r => r.2.2.2.1
  | none => 0

/-- The (kind, code) pairs of 60 R332. -/
def errorPairs : List (Nat × Nat) :=
  [(7, 0x01), (7, 0x02), (7, 0x03), (7, 0x04), (1, 0x10), (2, 0x11), (2, 0x12), (2, 0x13), (3, 0x14), (2, 0x15),
   (2, 0x16), (1, 0x20), (2, 0x21), (2, 0x22), (3, 0x23), (2, 0x30), (3, 0x31), (1, 0x40), (2, 0x41), (2, 0x42),
   (2, 0x43), (2, 0x44)]

/-- The rows that store nothing and are not `SRST`: every row but the four of 20 R87. -/
def storesNothing (i : Instr) : Prop :=
  i ≠ .ip4CsumPatch ∧ i ≠ .icmpCsumPatch ∧ i ≠ .sctpCsumPatch ∧ i ≠ .sctpChunkFrame ∧ i ≠ .srst

/-- Everything a command leaves alone whatever it stores (60 R340): operands, `PENDING`, `OVR`, `OP`, the instance's
parameters, the host's side. -/
def commandFrame (s t : State) : Prop :=
  t.ops = s.ops ∧ t.pending = s.pending ∧ t.status.ovr = s.status.ovr ∧ t.status.op = s.status.op
    ∧ t.params = s.params ∧ t.resetEpoch = s.resetEpoch ∧ t.agenda = s.agenda ∧ t.received = s.received

/-- `rd'` is `rd` with bit `j` of byte `a` flipped. -/
def FlippedBit (rd rd' : Nat → Byte) (a j : Nat) : Prop :=
  j < 8 ∧ rd' a = rd a ^^^ (1#8 <<< j) ∧ ∀ x, x ≠ a → rd' x = rd x

/-- `k` steps of the machine, stopping at a fault or a refusal: `Host.Core.run` of `Sys2Proof.core`, over `State`. -/
def runSteps : Nat → State → Host.Outcome State Fault Refusal
  | 0, s => .next s
  | k + 1, s =>
    match step s with
    | .next t => runSteps k t
    | .fault r => .fault r
    | .refused r => .refused r

/-- The host's next turn is this access. -/
def nextAccess (s : State) (a : Access) (rest : List Turn) : Prop := s.agenda = .access a :: rest

/-- A readable register (10 R29): its offset and its value. -/
def registerMap (s : State) : List (Nat × Word) :=
  [(0x00, 0#32), (0x04, s.status.word), (0x08, 0x53475401#32),
   (0x0C, reg (s.params.bufBytes + if s.params.icmpErrRegion = 8 then 0x1000000 else 0)),
   (0x10, s.ops.a0), (0x14, s.ops.a1), (0x18, s.ops.a2), (0x1C, s.ops.a3),
   (0x40, s.res.r0), (0x44, s.res.r1), (0x48, s.res.r2), (0x4C, s.res.r3), (0x50, s.res.r4), (0x54, s.res.r5),
   (0x58, s.res.r6), (0x5C, s.res.r7), (0x60, s.res.r8), (0x64, s.res.r9), (0x68, s.res.r10), (0x6C, s.res.r11),
   (0x70, s.res.r12), (0x74, s.res.r13), (0x78, s.res.r14), (0x7C, s.res.r15)]

/-- The table as 41 R161 prints it, line by line. -/
def printedCrcTable : List Nat :=
  [0x00000000, 0xF26B8303, 0xE13B70F7, 0x1350F3F4, 0xC79A971F, 0x35F1141C, 0x26A1E7E8, 0xD4CA64EB,
   0x8AD958CF, 0x78B2DBCC, 0x6BE22838, 0x9989AB3B, 0x4D43CFD0, 0xBF284CD3, 0xAC78BF27, 0x5E133C24,
   0x105EC76F, 0xE235446C, 0xF165B798, 0x030E349B, 0xD7C45070, 0x25AFD373, 0x36FF2087, 0xC494A384,
   0x9A879FA0, 0x68EC1CA3, 0x7BBCEF57, 0x89D76C54, 0x5D1D08BF, 0xAF768BBC, 0xBC267848, 0x4E4DFB4B,
   0x20BD8EDE, 0xD2D60DDD, 0xC186FE29, 0x33ED7D2A, 0xE72719C1, 0x154C9AC2, 0x061C6936, 0xF477EA35,
   0xAA64D611, 0x580F5512, 0x4B5FA6E6, 0xB93425E5, 0x6DFE410E, 0x9F95C20D, 0x8CC531F9, 0x7EAEB2FA,
   0x30E349B1, 0xC288CAB2, 0xD1D83946, 0x23B3BA45, 0xF779DEAE, 0x05125DAD, 0x1642AE59, 0xE4292D5A,
   0xBA3A117E, 0x4851927D, 0x5B016189, 0xA96AE28A, 0x7DA08661, 0x8FCB0562, 0x9C9BF696, 0x6EF07595]
  ++
  [0x417B1DBC, 0xB3109EBF, 0xA0406D4B, 0x522BEE48, 0x86E18AA3, 0x748A09A0, 0x67DAFA54, 0x95B17957,
   0xCBA24573, 0x39C9C670, 0x2A993584, 0xD8F2B687, 0x0C38D26C, 0xFE53516F, 0xED03A29B, 0x1F682198,
   0x5125DAD3, 0xA34E59D0, 0xB01EAA24, 0x42752927, 0x96BF4DCC, 0x64D4CECF, 0x77843D3B, 0x85EFBE38,
   0xDBFC821C, 0x2997011F, 0x3AC7F2EB, 0xC8AC71E8, 0x1C661503, 0xEE0D9600, 0xFD5D65F4, 0x0F36E6F7,
   0x61C69362, 0x93AD1061, 0x80FDE395, 0x72966096, 0xA65C047D, 0x5437877E, 0x4767748A, 0xB50CF789,
   0xEB1FCBAD, 0x197448AE, 0x0A24BB5A, 0xF84F3859, 0x2C855CB2, 0xDEEEDFB1, 0xCDBE2C45, 0x3FD5AF46,
   0x7198540D, 0x83F3D70E, 0x90A324FA, 0x62C8A7F9, 0xB602C312, 0x44694011, 0x5739B3E5, 0xA55230E6,
   0xFB410CC2, 0x092A8FC1, 0x1A7A7C35, 0xE811FF36, 0x3CDB9BDD, 0xCEB018DE, 0xDDE0EB2A, 0x2F8B6829]
  ++
  [0x82F63B78, 0x709DB87B, 0x63CD4B8F, 0x91A6C88C, 0x456CAC67, 0xB7072F64, 0xA457DC90, 0x563C5F93,
   0x082F63B7, 0xFA44E0B4, 0xE9141340, 0x1B7F9043, 0xCFB5F4A8, 0x3DDE77AB, 0x2E8E845F, 0xDCE5075C,
   0x92A8FC17, 0x60C37F14, 0x73938CE0, 0x81F80FE3, 0x55326B08, 0xA759E80B, 0xB4091BFF, 0x466298FC,
   0x1871A4D8, 0xEA1A27DB, 0xF94AD42F, 0x0B21572C, 0xDFEB33C7, 0x2D80B0C4, 0x3ED04330, 0xCCBBC033,
   0xA24BB5A6, 0x502036A5, 0x4370C551, 0xB11B4652, 0x65D122B9, 0x97BAA1BA, 0x84EA524E, 0x7681D14D,
   0x2892ED69, 0xDAF96E6A, 0xC9A99D9E, 0x3BC21E9D, 0xEF087A76, 0x1D63F975, 0x0E330A81, 0xFC588982,
   0xB21572C9, 0x407EF1CA, 0x532E023E, 0xA145813D, 0x758FE5D6, 0x87E466D5, 0x94B49521, 0x66DF1622,
   0x38CC2A06, 0xCAA7A905, 0xD9F75AF1, 0x2B9CD9F2, 0xFF56BD19, 0x0D3D3E1A, 0x1E6DCDEE, 0xEC064EED]
  ++
  [0xC38D26C4, 0x31E6A5C7, 0x22B65633, 0xD0DDD530, 0x0417B1DB, 0xF67C32D8, 0xE52CC12C, 0x1747422F,
   0x49547E0B, 0xBB3FFD08, 0xA86F0EFC, 0x5A048DFF, 0x8ECEE914, 0x7CA56A17, 0x6FF599E3, 0x9D9E1AE0,
   0xD3D3E1AB, 0x21B862A8, 0x32E8915C, 0xC083125F, 0x144976B4, 0xE622F5B7, 0xF5720643, 0x07198540,
   0x590AB964, 0xAB613A67, 0xB831C993, 0x4A5A4A90, 0x9E902E7B, 0x6CFBAD78, 0x7FAB5E8C, 0x8DC0DD8F,
   0xE330A81A, 0x115B2B19, 0x020BD8ED, 0xF0605BEE, 0x24AA3F05, 0xD6C1BC06, 0xC5914FF2, 0x37FACCF1,
   0x69E9F0D5, 0x9B8273D6, 0x88D28022, 0x7AB90321, 0xAE7367CA, 0x5C18E4C9, 0x4F48173D, 0xBD23943E,
   0xF36E6F75, 0x0105EC76, 0x12551F82, 0xE03E9C81, 0x34F4F86A, 0xC69F7B69, 0xD5CF889D, 0x27A40B9E,
   0x79B737BA, 0x8BDCB4B9, 0x988C474D, 0x6AE7C44E, 0xBE2DA0A5, 0x4C4623A6, 0x5F16D052, 0xAD7D5351]

end Sys2Proof.Spec

open Sys2Proof Sys2Proof.Machine Sys2Proof.Spec

/-! ### Encodings -/

/-- Decoding the encoding of any of the 44 rows gives the row back, and the row's opcode-table word (its opcode, 32 bits)
decodes to it where it is a command (30 R91). -/
def Obligations.EveryRowDecodesFromItsEncoding : Prop :=
  ∀ i : Instr, decode (encode i) = .ok i
    ∧ (i.isCommand = true → ∃ v, commandWord i = some v ∧ decodeTableWord 32 v.toNat = some i)

/-- No two encodings of one format decode to one row: whatever code decodes to `i` is the encoding of `i`, over all 2^32
command words and all tag bytes. Every bit of a command word is looked at. -/
def Obligations.DecodingIsInjective : Prop :=
  ∀ (c : Code) (i : Instr), decode c = .ok i → c = encode i

/-- 30 R91, R93: exactly the 18 opcodes with zeros above them are commands. -/
def Obligations.LegalCommandWords : Prop :=
  ∀ v : Word, (∃ i, decodeCommand v = .ok i) ↔ v.toNat ∈ opcodes

/-- A few words written out from 30 R92 and from the table's tag columns (log 10 for the tags), and the two illegal
examples of 46 R324. -/
def Obligations.SampleWordsDecode : Prop :=
  decodeTableWord 32 0x00000001 = some .oc16Gen ∧ decodeTableWord 32 0x00000012 = some .ip4CsumPatch
    ∧ decodeTableWord 32 0x00000032 = some .sctpPktWalk ∧ decodeTableWord 32 0x00000041 = some .sctpChunkFrame
    ∧ decodeTableWord 32 0x0000007F = some .srst
    ∧ decodeTableWord 32 0x00000101 = none ∧ decodeTableWord 32 0x0000017F = none
    ∧ decode (.icmpType8 13) = .ok .icmpTypeTimestamp ∧ decode (.sctpChunkType8 14) = .ok .chunkTypeShutdownComplete

/-! ### The step -/

/-- 60 R340: while busy, the block's step is the completion of the command `PENDING` encodes. WHEN the block moves is the
model's choice (DESIGN CHOICE, log 6), no rule of the spec: with nothing left on the agenda, at a `block` turn (then used
up), or at a `wait` (which stays). -/
def Obligations.StepRunsPendingCommand : Prop :=
  ∀ (s : State) (i : Instr), s.status.busy = true → decodeCommand s.pending = .ok i →
    (s.agenda = [] → step s = exec i s)
    ∧ (∀ rest, s.agenda = .block :: rest → step s = exec i { s with agenda := rest })
    ∧ (∀ rest, s.agenda = .wait :: rest → step s = exec i s)

/-- The model's choice for an idle block (log 7, from 10 R43 "the block has no step until the host writes `CMD`"): with
nothing left on the agenda the state stays as it is, and a `block` turn is used up. A `WAIT` of the host (30 R130; log 6)
ends, once the block is idle, with one read of `STATUS`. -/
def Obligations.TurnsOfAnIdleBlock : Prop :=
  ∀ s : State, s.status.busy = false →
    (s.agenda = [] → step s = .next s)
    ∧ (∀ rest, s.agenda = .block :: rest → step s = .next { s with agenda := rest })
    ∧ (∀ rest, s.agenda = .wait :: rest →
      step s = .next { s with agenda := rest, received := s.status.word :: s.received })

/-- The four forms of a `RUN` line of 30 R131 (no operand, or two, three or four of them), from an idle block with nothing
else to come: the line's turns (one write for each operand, `CMD`, the completion, the read of `STATUS`) end in the state
the command's own completion gives, whatever the command. An operand register the line does not name keeps its value. The
turns are the model's rendering of the host's accesses (log 6, log 8). -/
def Obligations.RunLineRunsItsCommand : Prop :=
  ∀ (s : State) (c : Instr) (word v w x y : Word) (line : List Word) (written : Operands),
    commandWord c = some word → s.status.busy = false → s.agenda = [] →
    (line, written) ∈
      [([], s.ops), ([v, w], { s.ops with a0 := v, a1 := w }), ([v, w, x], { s.ops with a0 := v, a1 := w, a2 := x }),
       ([v, w, x, y], { a0 := v, a1 := w, a2 := x, a3 := y })] →
    let started : State :=
      { s with
        ops := written
        pending := word
        status :=
          { busy := true, done := false, ok := false, ovr := s.status.ovr, kind := 0#3, code := 0#8,
            op := octet (word.toNat % 256) }
        agenda := [.wait] }
    ∃ finished, exec c started = .next finished
      ∧ runSteps (line.length + 3) (withScript s [.run c line]) = .next
          { finished with agenda := [], received := finished.status.word :: s.received }

/-! ### Reset -/

/-- 10 R43, 70 R371: what hardware reset leaves, in the machine's first state and from any state: operands, results,
`STATUS` and `PENDING` 0, so that every register of 10 R29 but `ID` and `CAP` reads 0. The other clauses are the model's
choice: that `BUF`, which 10 R45 leaves unspecified, then lists no written byte (log 3, log 4), that a reset is a turn of
the agenda and keeps the turns after it (log 13), and that the parameters are data a reset keeps (log 5). -/
def Obligations.HardwareResetLeaves : Prop :=
  (State.reset.ops = {} ∧ State.reset.res = {} ∧ State.reset.status = {} ∧ State.reset.pending = 0#32
    ∧ State.reset.status.word = 0#32 ∧ (∀ a, Memory.read State.reset.buf a = none)
    ∧ readReg State.reset 0x08 = 0x53475401#32 ∧ readReg State.reset 0x0C = 0x01010000#32)
  ∧ ∀ (s : State) (rest : List Turn), s.agenda = .hardwareReset :: rest →
    ∃ t, step s = .next t ∧ t.ops = {} ∧ t.res = {} ∧ t.status = {} ∧ t.pending = 0#32
      ∧ t.params = s.params ∧ (∀ a, Memory.read t.buf a = none) ∧ t.agenda = rest

/-- The state after reset meets the invariant. -/
def Obligations.ResetMeetsInvariant : Prop := State.reset.Inv

/-- Every step keeps the invariant: legal parameters (00 R5), a legal combination of `STATUS` (10 R31), cleared results
after an error (60 R341), the buffer's canonical form, and no byte of it outside `BUF` (20 R66). -/
def Obligations.StepKeepsInvariant : Prop :=
  ∀ s t : State, s.Inv → step s = .next t → t.Inv

/-! ### The host port -/

/-- 60 R339: a write to `CMD` while idle is accepted; while busy it changes nothing but `OVR`. -/
def Obligations.AcceptanceWrites : Prop :=
  ∀ (s : State) (v : Word) (rest : List Turn), nextAccess s (.write32 0x00 v) rest →
    (s.status.busy = false →
      step s = .next
        { s with
          agenda := rest
          pending := v
          status :=
            { busy := true, done := false, ok := false, ovr := s.status.ovr, kind := 0#3, code := 0#8,
              op := octet (v.toNat % 256) } })
    ∧ (s.status.busy = true → step s = .next { s with agenda := rest, status := { s.status with ovr := true } })

/-- 20 R72: while busy, a write to `CMD`, `A0..A3` or a byte of `BUF` is dropped and sets `OVR`; a write to any other
offset of the port changes nothing. -/
def Obligations.WritesWhileBusy : Prop :=
  ∀ (s : State) (rest : List Turn), s.status.busy = true →
    (∀ o v, nextAccess s (.write32 o v) rest → o ∈ [0x00, 0x10, 0x14, 0x18, 0x1C] →
      step s = .next { s with agenda := rest, status := { s.status with ovr := true } })
    ∧ (∀ j b, nextAccess s (.write8 (0x10000 + j) b) rest → j < s.params.bufBytes →
      step s = .next { s with agenda := rest, status := { s.status with ovr := true } })
    ∧ (∀ o v, nextAccess s (.write32 o v) rest → o % 4 = 0 → o < 0x10000 → o ∉ [0x00, 0x10, 0x14, 0x18, 0x1C] →
      step s = .next { s with agenda := rest })
    ∧ (∀ j b, nextAccess s (.write8 (0x10000 + j) b) rest → s.params.bufBytes ≤ j →
      step s = .next { s with agenda := rest })

/-- 20 R71 with 60 R339: a register write while idle sets the operand register it names, accepts a command at `CMD`, and
does nothing at every other offset of the port. -/
def Obligations.RegisterWritesWhileIdle : Prop :=
  ∀ (s : State) (v : Word) (rest : List Turn), s.status.busy = false →
    (nextAccess s (.write32 0x10 v) rest → step s = .next { s with agenda := rest, ops := { s.ops with a0 := v } })
    ∧ (nextAccess s (.write32 0x14 v) rest → step s = .next { s with agenda := rest, ops := { s.ops with a1 := v } })
    ∧ (nextAccess s (.write32 0x18 v) rest → step s = .next { s with agenda := rest, ops := { s.ops with a2 := v } })
    ∧ (nextAccess s (.write32 0x1C v) rest → step s = .next { s with agenda := rest, ops := { s.ops with a3 := v } })
    ∧ (nextAccess s (.write32 0x00 v) rest → ∃ t, step s = .next t ∧ t.pending = v ∧ t.status.busy = true ∧ t.ops = s.ops)
    ∧ (∀ o, nextAccess s (.write32 o v) rest → o % 4 = 0 → o < 0x10000 → o ∉ [0x00, 0x10, 0x14, 0x18, 0x1C] →
      step s = .next { s with agenda := rest })

/-- 20 R70 with the map of 10 R29: a register read delivers the register's value, `CMD` and every reserved offset 0,
whatever `BUSY` is, and changes nothing of the block. -/
def Obligations.RegisterReads : Prop :=
  ∀ (s : State) (o : Nat) (rest : List Turn), s.params.wellFormed = true → nextAccess s (.read32 o) rest →
    (∀ v, (o, v) ∈ registerMap s → step s = .next { s with agenda := rest, received := v :: s.received })
    ∧ (o % 4 = 0 → o < 0x10000 → (∀ v, (o, v) ∉ registerMap s) →
      step s = .next { s with agenda := rest, received := 0#32 :: s.received })

/-- 20 R73, 10 R38: a byte of the window reads as `BUF[j]` zero-extended, a write while idle sets that byte and no other,
and beyond `BUF_BYTES` the window reads 0 and ignores writes. -/
def Obligations.WindowReadsAndWrites : Prop :=
  ∀ (s : State) (j : Nat) (b : Byte) (rest : List Turn),
    (nextAccess s (.read8 (0x10000 + j)) rest → j < s.params.bufBytes →
      step s = .next { s with agenda := rest, received := reg (s.byte j).toNat :: s.received })
    ∧ (nextAccess s (.read8 (0x10000 + j)) rest → s.params.bufBytes ≤ j →
      step s = .next { s with agenda := rest, received := 0#32 :: s.received })
    ∧ (nextAccess s (.write8 (0x10000 + j) b) rest → s.status.busy = false → j < s.params.bufBytes →
      ∃ t, step s = .next t ∧ t.byte j = b ∧ (∀ a, a ≠ j → t.byte a = s.byte a)
        ∧ t = { s with agenda := rest, buf := t.buf })
    ∧ (nextAccess s (.write8 (0x10000 + j) b) rest → s.params.bufBytes ≤ j → step s = .next { s with agenda := rest })

/-- 10 R31: the places of the fields of `STATUS`, the reserved bits 0. -/
def Obligations.StatusWordFields : Prop :=
  ∀ st : Status, st.word.toNat
    = (if st.busy then 1 else 0) + (if st.done then 2 else 0) + (if st.ok then 4 else 0) + (if st.ovr then 8 else 0)
      + 16 * st.kind.toNat + 256 * st.code.toNat + 65536 * st.op.toNat

/-- The model's choice for accesses that "do not exist on this port" (log 9; 10 R29, 20 R61): they fault. -/
def Obligations.AbsentAccessesFault : Prop :=
  ∀ (s : State) (a : Access) (rest : List Turn), nextAccess s a rest →
    ((∃ o, (a = .read32 o ∨ ∃ v, a = .write32 o v) ∧ (o % 4 ≠ 0 ∨ 0x10000 ≤ o))
      ∨ (∃ o, (a = .read8 o ∨ ∃ b, a = .write8 o b) ∧ o < 0x10000)) →
    step s = .fault .noSuchAccess

/-! ### System commands -/

/-- 46 R321. -/
def Obligations.NopCompletes : Prop :=
  decodeCommand 0x00000000#32 = .ok .nop ∧ ∀ s : State, exec .nop s = .next (okState s {} [])

/-- 46 R322: registers, `STATUS` and `PENDING` 0, every byte of `BUF` kept. -/
def Obligations.SrstClearsRegisters : Prop :=
  decodeCommand 0x0000007F#32 = .ok .srst ∧ ∀ s : State, ∃ t, exec .srst s = .next t ∧ t.ops = {} ∧ t.res = {} ∧ t.status.word = 0#32 ∧ t.pending = 0#32
    ∧ (∀ a, t.byte a = s.byte a) ∧ t = { s with ops := {}, res := {}, status := {}, pending := 0#32 }

/-- 46 R324: an illegal value is accepted like a command and completes with `OperandInvalid.IllegalCommand`. -/
def Obligations.IllegalCommandCompletes : Prop :=
  ∀ (s : State) (v : Word), s.status.busy = false → s.agenda = [.access (.write32 0x00 v), .block] → v.toNat ∉ opcodes →
    runSteps 2 s = .next
      { s with
        agenda := []
        pending := v
        res := {}
        status :=
          { busy := false, done := true, ok := false, ovr := s.status.ovr, kind := 7#3, code := 0x02#8,
            op := octet (v.toNat % 256) } }

/-! ### One's-complement and CRC32c commands -/

/-- 40 R144. -/
def Obligations.Oc16GenResult : Prop :=
  decodeCommand 0x00000001#32 = .ok .oc16Gen ∧ ∀ s : State,
    (firstFailure (oc16Checks s) = none →
      exec .oc16Gen s = .next
        (okState s
          { r0 := reg (0xFFFF - twoFolds (wordSum s.byte (base s) (len s))),
            r1 := reg (twoFolds (wordSum s.byte (base s) (len s))) } []))
    ∧ ∀ k c, firstFailure (oc16Checks s) = some (k, c) → exec .oc16Gen s = .next (errState s k c)

/-- 40 R145. -/
def Obligations.Oc16ValResult : Prop :=
  decodeCommand 0x00000002#32 = .ok .oc16Val ∧ ∀ s : State,
    (firstFailure (oc16Checks s) = none →
      exec .oc16Val s = .next
        (okState s
          { r0 := if twoFolds (wordSum s.byte (base s) (len s)) = 0xFFFF then 1#32 else 0#32,
            r1 := reg (twoFolds (wordSum s.byte (base s) (len s))) } []))
    ∧ ∀ k c, firstFailure (oc16Checks s) = some (k, c) → exec .oc16Val s = .next (errState s k c)

/-- 41 R165 (polynomial and update step: log 11). -/
def Obligations.Crc32cGenResult : Prop :=
  decodeCommand 0x00000003#32 = .ok .crc32cGen ∧ ∀ s : State,
    (firstFailure (crcChecks s) = none →
      exec .crc32cGen s = .next (okState s { r0 := reg (crcOf s.byte (base s) (len s) s.ops.a2.toNat) } []))
    ∧ ∀ k c, firstFailure (crcChecks s) = some (k, c) → exec .crc32cGen s = .next (errState s k c)

/-- 41 R166 (polynomial and update step: log 11). -/
def Obligations.Crc32cValResult : Prop :=
  decodeCommand 0x00000004#32 = .ok .crc32cVal ∧ ∀ s : State,
    let computed := crcOf s.byte (base s) (len s) s.ops.a2.toNat
    let stored := be4 s.byte (base s + s.ops.a2.toNat)
    (firstFailure (crcChecks s) = none →
      exec .crc32cVal s = .next
        (okState s { r0 := if stored = computed then 1#32 else 0#32, r1 := reg computed, r2 := reg stored } []))
    ∧ ∀ k c, firstFailure (crcChecks s) = some (k, c) → exec .crc32cVal s = .next (errState s k c)

/-- 45 R282. -/
def Obligations.PadAlign4Result : Prop :=
  decodeCommand 0x00000008#32 = .ok .padAlign4 ∧ ∀ s : State,
    (len s ≤ 0xFFFFFFFC →
      exec .padAlign4 s = .next (okState s { r0 := reg (roundUp (len s)), r1 := reg (roundUp (len s) - len s) } []))
    ∧ (0xFFFFFFFC < len s → exec .padAlign4 s = .next (errState s 7 0x01))

/-! ### IPv4 commands -/

/-- 42 R186, R181. -/
def Obligations.Ip4HdrParseResult : Prop :=
  decodeCommand 0x00000010#32 = .ok .ip4HdrParse ∧ ∀ s : State,
    (firstFailure (ip4Checks s) = none → exec .ip4HdrParse s = .next (okState s (ip4Columns s) []))
    ∧ ∀ k c, firstFailure (ip4Checks s) = some (k, c) → exec .ip4HdrParse s = .next (errState s k c)

/-- 42 R188, R181. -/
def Obligations.Ip4DgramParseResult : Prop :=
  decodeCommand 0x00000011#32 = .ok .ip4DgramParse ∧ ∀ s : State,
    let checks := ip4Checks s ++ [(decide (len s < totalLength s), 2, 0x16)]
    (firstFailure checks = none → exec .ip4DgramParse s = .next (okState s (ip4Columns s) []))
    ∧ ∀ k c, firstFailure checks = some (k, c) → exec .ip4DgramParse s = .next (errState s k c)

/-- 42 R190. -/
def Obligations.Ip4CsumPatchResult : Prop :=
  decodeCommand 0x00000012#32 = .ok .ip4CsumPatch ∧ ∀ s : State,
    let c := checksumWithout s.byte (base s) (4 * ihl s) 10
    (firstFailure (ip4PatchChecks s) = none →
      exec .ip4CsumPatch s = .next
        (okState s { r0 := reg c, r1 := reg (4 * ihl s) }
          [(base s + 10, octet (c / 256)), (base s + 11, octet (c % 256))]))
    ∧ ∀ k c, firstFailure (ip4PatchChecks s) = some (k, c) → exec .ip4CsumPatch s = .next (errState s k c)

/-! ### ICMP commands -/

/-- 43 R218, R212, R216: the range and the 4 bytes, then the dispatch on the tag through the table of the instance, then
the row's length rule, the even length and the checksum. -/
def Obligations.IcmpParseResult : Prop :=
  decodeCommand 0x00000020#32 = .ok .icmpParse ∧ ∀ s : State,
    (∀ k c, firstFailure (icmpFirstChecks s) = some (k, c) → exec .icmpParse s = .next (errState s k c))
    ∧ (firstFailure (icmpFirstChecks s) = none → icmpRowOf s.params.icmpTypes (s.byte (base s)) = none →
      exec .icmpParse s = .next (errState s 1 0x20))
    ∧ ∀ row, icmpRowOf s.params.icmpTypes (s.byte (base s)) = some row →
      (firstFailure (icmpKindChecks s row.kind) = none →
        exec .icmpParse s = .next (okState s (icmpColumns s row.kind (if row.reply then 1 else 0)) []))
      ∧ ∀ k c, firstFailure (icmpKindChecks s row.kind) = some (k, c) → exec .icmpParse s = .next (errState s k c)

/-- 43 R222. -/
def Obligations.IcmpCsumPatchResult : Prop :=
  decodeCommand 0x00000021#32 = .ok .icmpCsumPatch ∧ ∀ s : State,
    let checks := icmpFirstChecks s ++ [(len s % 2 == 1, 7, 0x03)]
    let c := checksumWithout s.byte (base s) (len s) 2
    (firstFailure checks = none →
      exec .icmpCsumPatch s = .next
        (okState s { r0 := reg c } [(base s + 2, octet (c / 256)), (base s + 3, octet (c % 256))]))
    ∧ ∀ k c, firstFailure checks = some (k, c) → exec .icmpCsumPatch s = .next (errState s k c)

/-- The rows `ICMP.TYPE.ECHO` and `ICMP.TYPE.ECHO_REPLY` (the model's reading of a type-tag row, log 1: what `ICMP.PARSE`
does after dispatching on it, 30 R135 "Its result selects which length rule and which result layout the command
applies"). -/
def Obligations.EchoRowsResult : Prop :=
  ∀ s : State,
    (firstFailure (icmpKindChecks s .echo) = none →
      exec .icmpTypeEcho s = .next (okState s (icmpColumns s .echo 0) [])
      ∧ exec .icmpTypeEchoReply s = .next (okState s (icmpColumns s .echo 1) []))
    ∧ ∀ k c, firstFailure (icmpKindChecks s .echo) = some (k, c) →
      exec .icmpTypeEcho s = .next (errState s k c) ∧ exec .icmpTypeEchoReply s = .next (errState s k c)

/-- The five error-report rows `ICMP.TYPE.DEST_UNREACHABLE`, `SOURCE_QUENCH`, `REDIRECT`, `TIME_EXCEEDED` and
`PARAMETER_PROBLEM` (log 1): two-phase length, kind number 1 to 5, the embedded header located. -/
def Obligations.ErrorReportRowsResult : Prop :=
  ∀ (s : State) (i : Instr) (kind : IcmpKind),
    (i, kind) ∈
      [(Instr.icmpTypeDestUnreachable, IcmpKind.destUnreachable), (.icmpTypeSourceQuench, .sourceQuench),
       (.icmpTypeRedirect, .redirect), (.icmpTypeTimeExceeded, .timeExceeded),
       (.icmpTypeParameterProblem, .parameterProblem)] →
    (firstFailure (icmpKindChecks s kind) = none → exec i s = .next (okState s (icmpColumns s kind 0) []))
    ∧ ∀ k c, firstFailure (icmpKindChecks s kind) = some (k, c) → exec i s = .next (errState s k c)

/-- The rows of fixed length `ICMP.TYPE.TIMESTAMP`, `ICMP.TYPE.TIMESTAMP_REPLY` (20 bytes), `ICMP.TYPE.INFO_REQUEST` and
`ICMP.TYPE.INFO_REPLY` (8 bytes) (log 1). -/
def Obligations.FixedLengthRowsResult : Prop :=
  ∀ s : State,
    (firstFailure (icmpKindChecks s .timestamp) = none →
      exec .icmpTypeTimestamp s = .next (okState s (icmpColumns s .timestamp 0) [])
      ∧ exec .icmpTypeTimestampReply s = .next (okState s (icmpColumns s .timestamp 1) []))
    ∧ (∀ k c, firstFailure (icmpKindChecks s .timestamp) = some (k, c) →
      exec .icmpTypeTimestamp s = .next (errState s k c) ∧ exec .icmpTypeTimestampReply s = .next (errState s k c))
    ∧ (firstFailure (icmpKindChecks s .information) = none →
      exec .icmpTypeInfoRequest s = .next (okState s (icmpColumns s .information 0) [])
      ∧ exec .icmpTypeInfoReply s = .next (okState s (icmpColumns s .information 1) []))
    ∧ ∀ k c, firstFailure (icmpKindChecks s .information) = some (k, c) →
      exec .icmpTypeInfoRequest s = .next (errState s k c) ∧ exec .icmpTypeInfoReply s = .next (errState s k c)

/-! ### SCTP packet commands -/

/-- 44 R254. -/
def Obligations.SctpHdrParseResult : Prop :=
  decodeCommand 0x00000030#32 = .ok .sctpHdrParse ∧ ∀ s : State,
    (firstFailure (sctpHeaderChecks s) = none → exec .sctpHdrParse s = .next (okState s (sctpColumns s 0) []))
    ∧ ∀ k c, firstFailure (sctpHeaderChecks s) = some (k, c) → exec .sctpHdrParse s = .next (errState s k c)

/-- 44 R256 (polynomial and update step: log 11). -/
def Obligations.SctpPktCheckResult : Prop :=
  decodeCommand 0x00000031#32 = .ok .sctpPktCheck ∧ ∀ s : State,
    (firstFailure (sctpPacketChecks s) = none → exec .sctpPktCheck s = .next (okState s (sctpColumns s 0) []))
    ∧ ∀ k c, firstFailure (sctpPacketChecks s) = some (k, c) → exec .sctpPktCheck s = .next (errState s k c)

/-- 44 R258, R253: header, CRC, then every chunk to the end of the packet; and the walk always ends, with a count or with
the error of a chunk (70 R390). -/
def Obligations.SctpPktWalkResult : Prop :=
  decodeCommand 0x00000032#32 = .ok .sctpPktWalk ∧ ∀ s : State,
    let p := s.params
    let cur := base s + 12
    let rem := len s - 12
    (∀ k c, firstFailure (sctpPacketChecks s) = some (k, c) → exec .sctpPktWalk s = .next (errState s k c))
    ∧ (∀ n, firstFailure (sctpPacketChecks s) = none → WalkCounts p s.byte cur rem n →
      exec .sctpPktWalk s = .next (okState s (sctpColumns s n) []))
    ∧ (∀ k c, firstFailure (sctpPacketChecks s) = none → WalkFails p s.byte cur rem k c →
      exec .sctpPktWalk s = .next (errState s k c))
    ∧ ((∃ n, WalkCounts p s.byte cur rem n) ∨ ∃ k c, WalkFails p s.byte cur rem k c)

/-- 44 R262 (polynomial and update step: log 11; the order of the four bytes: 41 R163). -/
def Obligations.SctpCsumPatchResult : Prop :=
  decodeCommand 0x00000033#32 = .ok .sctpCsumPatch ∧ ∀ s : State,
    let c := crcOf s.byte (base s) (len s) 8
    (firstFailure (sctpHeaderChecks s) = none →
      exec .sctpCsumPatch s = .next
        (okState s { r0 := reg c }
          [(base s + 8, octet (c / 16777216)), (base s + 9, octet (c / 65536 % 256)),
           (base s + 10, octet (c / 256 % 256)), (base s + 11, octet (c % 256))]))
    ∧ ∀ k c, firstFailure (sctpHeaderChecks s) = some (k, c) → exec .sctpCsumPatch s = .next (errState s k c)

/-! ### Chunk framing commands -/

/-- 45 R284, R281, R288. -/
def Obligations.SctpChunkNextResult : Prop :=
  decodeCommand 0x00000040#32 = .ok .sctpChunkNext ∧ ∀ s : State,
    let checks := rangeCheck s :: chunkChecks s.params s.byte (base s) (len s)
    (∀ kind, firstFailure checks = none → chunkKindOf s.params.chunkTypes (s.byte (base s)) = some kind →
      exec .sctpChunkNext s = .next
        (okState s
          (chunkColumns (base s) (len s) (s.byte (base s)).toNat (s.byte (base s + 1)).toNat (be2 s.byte (base s + 2))
            (kindColumn kind)) []))
    ∧ ∀ k c, firstFailure checks = some (k, c) → exec .sctpChunkNext s = .next (errState s k c)

/-- 45 R290, R288. -/
def Obligations.SctpChunkFrameResult : Prop :=
  decodeCommand 0x00000041#32 = .ok .sctpChunkFrame ∧ ∀ s : State,
    (∀ kind, firstFailure (frameChecks s) = none →
      chunkKindOf s.params.chunkTypes (octet (frameType s)) = some kind →
      exec .sctpChunkFrame s = .next
        (okState s (chunkColumns (base s) (len s) (frameType s) (frameFlags s) (frameLength s) (kindColumn kind))
          (frameStores s)))
    ∧ ∀ k c, firstFailure (frameChecks s) = some (k, c) → exec .sctpChunkFrame s = .next (errState s k c)

/-- The fifteen `SCTP.CHUNK.TYPE.*` rows (DATA, INIT, INIT_ACK, SACK, HEARTBEAT, HEARTBEAT_ACK, ABORT, SHUTDOWN,
SHUTDOWN_ACK, ERROR, COOKIE_ECHO, COOKIE_ACK, RESERVED_1, RESERVED_2, SHUTDOWN_COMPLETE): what `SCTP.CHUNK.NEXT` does after
dispatching on the row (the model's reading, log 1), with the length rule the instance's table gives the row's kind. -/
def Obligations.ChunkRowsResult : Prop :=
  ∀ (s : State) (i : Instr) (type : Byte) (kind : ChunkKind) (number lo hi : Nat),
    (i, type, kind, number, lo, hi) ∈ chunkRows →
    let L := be2 s.byte (base s + 2)
    let checks : List Check :=
      [rangeCheck s, (decide (len s < 4), 2, 0x41),
       (decide (L < 4) || !chunkLenOk s.params.chunkTypes kind L, 2, 0x42), (decide (len s < roundUp L), 2, 0x43)]
    (firstFailure checks = none →
      exec i s = .next
        (okState s
          (chunkColumns (base s) (len s) (s.byte (base s)).toNat (s.byte (base s + 1)).toNat L number) []))
    ∧ ∀ k c, firstFailure checks = some (k, c) → exec i s = .next (errState s k c)

/-! ### Dispatch -/

/-- 30 R112, for every `ICMP_TYPE_TABLE` (00 R5: a parameter, and a map, so no tag has two rows): a tag selects the row
of the table that has it, and nothing where no row has it. And the default table is the spec's printed one and nothing else
(log 10: the tags are "[from general knowledge, not in source]"): each of its eleven tags selects its kind and `reply`,
every other tag nothing. -/
def Obligations.DefaultIcmpTable : Prop :=
  (∀ (tbl : List IcmpRow) (t : Byte), (tbl.map (·.tag)).Nodup →
    (∀ row, icmpRowOf tbl t = some row ↔ row ∈ tbl ∧ row.tag = t)
    ∧ (icmpRowOf tbl t = none ↔ ∀ row ∈ tbl, row.tag ≠ t))
  ∧ ∀ t : Byte,
    (∀ i kind reply, (i, t, kind, reply) ∈ icmpRows →
      icmpRowOf defaultIcmpTypes t = some ⟨t, kind, reply⟩ ∧ decode (.icmpType8 t) = .ok i)
    ∧ ((∀ r ∈ icmpRows, r.2.1 ≠ t) → icmpRowOf defaultIcmpTypes t = none)

/-- 30 R118, for every `CHUNK_TYPE_TABLE` (00 R5: a parameter, and a map, so no type has two rows): a type selects the
kind of the row that has it, and nothing where no row has it; where no kind has two rows either, `ChunkLenOK` of a row's
kind is that row's length rule, in one of the three forms the model admits (log 20). And the default table is the spec's
printed one and nothing else (log 10): each of its fifteen types selects its kind, whose length rule allows exactly the
lengths of its row, every other type nothing. -/
def Obligations.DefaultChunkTable : Prop :=
  (∀ (tbl : List ChunkRow) (t : Byte), (tbl.map (·.type)).Nodup →
    (∀ kind, chunkKindOf tbl t = some kind ↔ ∃ row ∈ tbl, row.type = t ∧ row.kind = kind)
    ∧ (chunkKindOf tbl t = none ↔ ∀ row ∈ tbl, row.type ≠ t))
  ∧ (∀ (tbl : List ChunkRow) (row : ChunkRow) (L : Nat), (tbl.map (·.kind)).Nodup → row ∈ tbl →
    (chunkLenOk tbl row.kind L = true ↔ ruleAllows row.rule L))
  ∧ ∀ t : Byte,
    (∀ i kind number lo hi, (i, t, kind, number, lo, hi) ∈ chunkRows →
      chunkKindOf defaultChunkTypes t = some kind ∧ decode (.sctpChunkType8 t) = .ok i
        ∧ chunkKindNumber kind = number
        ∧ ∀ L, L ≤ 65535 → (chunkLenOk defaultChunkTypes kind L = true ↔ lo ≤ L ∧ L ≤ hi))
    ∧ ((∀ r ∈ chunkRows, r.2.1 ≠ t) → chunkKindOf defaultChunkTypes t = none)

/-! ### Frames -/

/-- Every row but `SRST` and the four storing commands (`NOP`, the checksum commands `OC16.GEN`, `OC16.VAL`, `CRC32C.GEN`,
`CRC32C.VAL`, `PAD.ALIGN4`, the parsers `IP4.HDR.PARSE`, `IP4.DGRAM.PARSE`, `ICMP.PARSE`, `SCTP.HDR.PARSE`, `SCTP.PKT.CHECK`,
`SCTP.PKT.WALK`, `SCTP.CHUNK.NEXT` and the 26 type-tag rows) leaves every byte of `BUF`, the operand registers, `PENDING`,
`OVR`, `OP` and the instance's parameters as they were. -/
def Obligations.NonStoringRowsFrame : Prop :=
  ∀ (i : Instr) (s t : State), storesNothing i → exec i s = .next t →
    (∀ a, t.byte a = s.byte a) ∧ t.buf = s.buf ∧ commandFrame s t

/-- The three patch commands store at `A0 + 10` (2 bytes), `A0 + 2` (2 bytes) and `A0 + 8` (4 bytes) and nowhere else. -/
def Obligations.ChecksumPatchFrame : Prop :=
  ∀ (i : Instr) (offset width : Nat) (s t : State),
    (i, offset, width) ∈ [(Instr.ip4CsumPatch, 10, 2), (.icmpCsumPatch, 2, 2), (.sctpCsumPatch, 8, 4)] →
    exec i s = .next t →
    (∀ a, ¬(s.ops.a0.toNat + offset ≤ a ∧ a < s.ops.a0.toNat + offset + width) → t.byte a = s.byte a)
      ∧ commandFrame s t

/-- `SCTP.CHUNK.FRAME` stores the four header bytes at `A0` and the padding bytes after the value, and nowhere else: the
value bytes keep what the host put there. -/
def Obligations.ChunkFrameFrame : Prop :=
  ∀ s t : State, exec .sctpChunkFrame s = .next t →
    (∀ a, ¬(base s ≤ a ∧ a < base s + 4) →
      ¬(base s + frameLength s ≤ a ∧ a < base s + roundUp (frameLength s)) → t.byte a = s.byte a)
      ∧ commandFrame s t

/-- No command stores outside its region: a byte of `BUF` that a row changes lies in `[A0, A0 + A1)` and below
`BUF_BYTES`. -/
def Obligations.StoresStayInRegion : Prop :=
  ∀ (i : Instr) (s t : State) (a : Nat), exec i s = .next t → t.byte a ≠ s.byte a →
    base s ≤ a ∧ a < base s + len s ∧ a < s.params.bufBytes

/-- 60 R341: a row that ends in error has written no byte of `BUF` and delivered no result; and the kind and code it
records are a row of the table of 60 R332. -/
def Obligations.ErrorsArePrecise : Prop :=
  ∀ (i : Instr) (s t : State), exec i s = .next t → t.status.done = true → t.status.ok = false →
    t.res = {} ∧ t.buf = s.buf ∧ (∀ a, t.byte a = s.byte a) ∧ t.ops = s.ops
      ∧ (t.status.kind.toNat, t.status.code.toNat) ∈ errorPairs

/-! ### The arithmetic -/

/-- 40 R141: the sum is exact, and two folds of it give 0 for an empty or all-zero sum and else the number from 1 to
0xFFFF congruent to it modulo 0xFFFF. -/
def Obligations.SumAndFold : Prop :=
  ∀ (rd : Nat → Byte) (b n : Nat), n % 2 = 0 → n ≤ 65536 →
    let S := ocSum rd b n
    S = wordSum rd b n ∧ S < 2 ^ 32 ∧ fold S = twoFolds S ∧ fold S ≤ 0xFFFF ∧ (fold S = 0 ↔ S = 0)
      ∧ (0 < S → 1 ≤ fold S ∧ fold S % 65535 = S % 65535)

/-- From 40 R146 (e): a region that validates fails as soon as one bit of it is flipped. -/
def Obligations.SingleBitFailsOneComplement : Prop :=
  ∀ (rd rd' : Nat → Byte) (b n a j : Nat), n % 2 = 0 → n ≤ 65536 → b ≤ a → a < b + n → FlippedBit rd rd' a j →
    ocVal rd b n = true → ocVal rd' b n = false

/-- From 40 R148: the parsers' recompute-and-compare and the validation agree for every field but one pair: when the rest
folds to 0xFFFF, validation accepts the fields 0x0000 and 0xFFFF, recomputation 0x0000 alone. -/
def Obligations.RecomputeVersusValidate : Prop :=
  ∀ (rd : Nat → Byte) (b n z : Nat), n % 2 = 0 → z % 2 = 0 → z + 2 ≤ n → n ≤ 65536 →
    let rest := twoFolds (wordSumWithout rd b n z)
    let field := be2 rd (b + z)
    (rest ≠ 0xFFFF → (ocVal rd b n = true ↔ field = ocGenZ rd b n z))
    ∧ (rest = 0xFFFF → (ocVal rd b n = true ↔ field = 0x0000 ∨ field = 0xFFFF) ∧ (field = ocGenZ rd b n z ↔ field = 0x0000))

/-- The table the spec prints in 41 R161 (its construction from general knowledge: log 11), all 256 entries. -/
def Obligations.CrcTableAsPrinted : Prop :=
  ∀ i : Fin 256, (crcTable (BitVec.ofNat 8 i.val)).toNat = printedCrcTable.getD i.val 0

/-- From 41 R164 (c) and (a): one flipped bit outside the four checksum bytes changes the CRC; the four bytes themselves
do not matter. -/
def Obligations.CrcDetectsSingleBit : Prop :=
  ∀ (rd rd' : Nat → Byte) (b n k a j : Nat), FlippedBit rd rd' a j →
    (b ≤ a → a < b + n → ¬(b + k ≤ a ∧ a < b + k + 4) → crc32c rd' b n k ≠ crc32c rd b n k)
    ∧ (b + k ≤ a → a < b + k + 4 → crc32c rd' b n k = crc32c rd b n k)

/-! ### Round trips -/

/-- From 42 R191. -/
def Obligations.Ip4RoundTrip : Prop :=
  (∀ s t : State, exec .ip4HdrParse s = .next t → t.status.ok = true →
    ∃ u, exec .ip4CsumPatch s = .next u ∧ u.status.ok = true ∧ ∀ a, u.byte a = s.byte a)
  ∧ ∀ s t : State, exec .ip4CsumPatch s = .next t → t.status.ok = true → version s = 4 → 4 * ihl s ≤ totalLength s →
    ∃ u, exec .ip4HdrParse t = .next u ∧ u.status.ok = true

/-- From 43 R223. -/
def Obligations.IcmpRoundTrip : Prop :=
  (∀ (s t : State) (row : IcmpRow), exec .icmpCsumPatch s = .next t → t.status.ok = true →
    icmpRowOf s.params.icmpTypes (s.byte (base s)) = some row → firstFailure (lengthChecks s row.kind) = none →
    messageLength s row.kind = len s → ∃ u, exec .icmpParse t = .next u ∧ u.status.ok = true)
  ∧ ∀ s t : State, exec .icmpParse s = .next t → t.status.ok = true →
    ∃ u, exec .icmpCsumPatch { s with ops := { s.ops with a1 := t.res.r5 } } = .next u ∧ u.status.ok = true
      ∧ ∀ a, u.byte a = s.byte a

/-- From 44 R263. -/
def Obligations.SctpRoundTrip : Prop :=
  (∀ s t : State, exec .sctpCsumPatch s = .next t → t.status.ok = true →
    (∃ u, exec .sctpPktCheck t = .next u ∧ u.status.ok = true)
    ∧ ∃ u, exec .crc32cVal { t with ops := { t.ops with a2 := 8#32 } } = .next u ∧ u.status.ok = true ∧ u.res.r0 = 1#32)
  ∧ ∀ s t : State, exec .sctpPktCheck s = .next t → t.status.ok = true →
    ∃ u, exec .sctpCsumPatch s = .next u ∧ u.status.ok = true ∧ ∀ a, u.byte a = s.byte a

/-- From 45 R291, and the last sentence of the corner cases of R290. -/
def Obligations.ChunkRoundTrip : Prop :=
  (∀ s t : State, exec .sctpChunkNext s = .next t → t.status.ok = true →
    ∃ u, exec .sctpChunkFrame
        { s with
          ops := { s.ops with
            a2 := reg (256 * (s.byte (base s)).toNat + (s.byte (base s + 1)).toNat)
            a3 := reg (be2 s.byte (base s + 2) - 4) } } = .next u
      ∧ u.status.ok = true
      ∧ ∀ a, u.byte a ≠ s.byte a →
        base s + be2 s.byte (base s + 2) ≤ a ∧ a < base s + roundUp (be2 s.byte (base s + 2)) ∧ s.byte a ≠ 0#8)
  ∧ ∀ s t : State, exec .sctpChunkFrame s = .next t → t.status.ok = true →
    ∃ u, exec .sctpChunkNext t = .next u ∧ u.status.ok = true ∧ u.res = t.res

/-- From 60 R346, for an SCTP packet: a packet that passes the CRC check fails it, with `PacketChecksumInvalid`, when one
bit outside bytes 8 to 11 is flipped; the walk reports the same, whatever the flip does to the chunks. -/
def Obligations.SctpSingleBitRefused : Prop :=
  ∀ (s s' t : State) (a j : Nat), s'.ops = s.ops → s'.params = s.params → FlippedBit s.byte s'.byte a j →
    base s ≤ a → a < base s + len s → ¬(base s + 8 ≤ a ∧ a < base s + 12) →
    exec .sctpPktCheck s = .next t → t.status.ok = true →
    exec .sctpPktCheck s' = .next (errState s' 3 0x31) ∧ exec .sctpPktWalk s' = .next (errState s' 3 0x31)

/-! ### The whole block -/

/-- 10 R28 with 20 R66: the outcome of a row depends on its operands, the parameters and the bytes of its region alone.
Two states that agree on these, and on nothing else, end with the same results, the same outcome in `STATUS` and the same
bytes in the region. -/
def Obligations.OutcomeDependsOnRegionOnly : Prop :=
  ∀ (i : Instr) (s s' : State), s'.ops = s.ops → s'.params = s.params →
    (∀ a, base s ≤ a → a < base s + len s → s'.byte a = s.byte a) →
    ∃ t t', exec i s = .next t ∧ exec i s' = .next t' ∧ t'.res = t.res ∧ t'.ops = t.ops
      ∧ t'.status.busy = t.status.busy ∧ t'.status.done = t.status.done ∧ t'.status.ok = t.status.ok
      ∧ t'.status.kind = t.status.kind ∧ t'.status.code = t.status.code
      ∧ ∀ a, base s ≤ a → a < base s + len s → t'.byte a = t.byte a

/-- From 20 R80, R69: whatever accesses the host makes while a command is in flight, the command ends with the results,
the bytes and the `STATUS` (but for `OVR`) it would have ended with at once. -/
def Obligations.HostAccessesDoNotDisturbCommand : Prop :=
  ∀ (s : State) (accesses : List Access), s.status.busy = true → (∀ a ∈ accesses, a.onPort = true) →
    s.agenda = accesses.map Turn.access ++ [.block] →
    ∃ t t', runSteps (accesses.length + 1) s = .next t ∧ step { s with agenda := [] } = .next t'
      ∧ t.ops = t'.ops ∧ t.res = t'.res ∧ t.buf = t'.buf ∧ t.pending = t'.pending ∧ t.agenda = []
      ∧ { t.status with ovr := false } = { t'.status with ovr := false }

/-- 70 R390 ("a finite but unstated delay") in the model's own measure: from any busy state the pending command completes,
or is abandoned by a hardware reset, after at most as many steps as the agenda has turns, and one more. The bound is the
model's choice (DESIGN CHOICE, log 6 and log 16: the agenda is finite, and the block moves when it is used up); the spec
states none. -/
def Obligations.AcceptedCommandCompletes : Prop :=
  ∀ s : State, s.status.busy = true → s.agendaOnPort →
    ∃ k t, k ≤ s.agenda.length + 1 ∧ runSteps k s = .next t ∧ t.status.busy = false
end

