-- ==== Sys2Proof/Laws/State.lean ====
section
/-! SUPPORT. One lemma per field per update of the state and of `STATUS`, each true by `rfl`: no later proof unfolds a record
update. -/

namespace Sys2Proof.Machine

/-! ### `succeed` -/

@[simp] theorem succeed_ops (s : State) (d : Done) : (succeed s d).ops = s.ops := rfl
@[simp] theorem succeed_res (s : State) (d : Done) : (succeed s d).res = d.regs := rfl
@[simp] theorem succeed_status (s : State) (d : Done) : (succeed s d).status = s.status.succeeded := rfl
@[simp] theorem succeed_pending (s : State) (d : Done) : (succeed s d).pending = s.pending := rfl
@[simp] theorem succeed_buf (s : State) (d : Done) : (succeed s d).buf = Memory.writeAll s.buf d.stores := rfl
@[simp] theorem succeed_params (s : State) (d : Done) : (succeed s d).params = s.params := rfl
@[simp] theorem succeed_resetEpoch (s : State) (d : Done) : (succeed s d).resetEpoch = s.resetEpoch := rfl
@[simp] theorem succeed_agenda (s : State) (d : Done) : (succeed s d).agenda = s.agenda := rfl
@[simp] theorem succeed_received (s : State) (d : Done) : (succeed s d).received = s.received := rfl

/-! ### `raiseError` -/

@[simp] theorem raiseError_ops (s : State) (e : CmdError) : (raiseError s e).ops = s.ops := rfl
@[simp] theorem raiseError_res (s : State) (e : CmdError) : (raiseError s e).res = {} := rfl
@[simp] theorem raiseError_status (s : State) (e : CmdError) : (raiseError s e).status = s.status.failed e := rfl
@[simp] theorem raiseError_pending (s : State) (e : CmdError) : (raiseError s e).pending = s.pending := rfl
@[simp] theorem raiseError_buf (s : State) (e : CmdError) : (raiseError s e).buf = s.buf := rfl
@[simp] theorem raiseError_params (s : State) (e : CmdError) : (raiseError s e).params = s.params := rfl
@[simp] theorem raiseError_resetEpoch (s : State) (e : CmdError) : (raiseError s e).resetEpoch = s.resetEpoch := rfl
@[simp] theorem raiseError_agenda (s : State) (e : CmdError) : (raiseError s e).agenda = s.agenda := rfl
@[simp] theorem raiseError_received (s : State) (e : CmdError) : (raiseError s e).received = s.received := rfl

/-! ### `accept` -/

@[simp] theorem accept_ops (s : State) (v : Word) : (accept s v).ops = s.ops := rfl
@[simp] theorem accept_res (s : State) (v : Word) : (accept s v).res = s.res := rfl
@[simp] theorem accept_status (s : State) (v : Word) : (accept s v).status = s.status.accepted (v.extractLsb' 0 8) := rfl
@[simp] theorem accept_pending (s : State) (v : Word) : (accept s v).pending = v := rfl
@[simp] theorem accept_buf (s : State) (v : Word) : (accept s v).buf = s.buf := rfl
@[simp] theorem accept_params (s : State) (v : Word) : (accept s v).params = s.params := rfl
@[simp] theorem accept_resetEpoch (s : State) (v : Word) : (accept s v).resetEpoch = s.resetEpoch := rfl
@[simp] theorem accept_agenda (s : State) (v : Word) : (accept s v).agenda = s.agenda := rfl
@[simp] theorem accept_received (s : State) (v : Word) : (accept s v).received = s.received := rfl

/-! ### `dropWrite` -/

@[simp] theorem dropWrite_ops (s : State) : (dropWrite s).ops = s.ops := rfl
@[simp] theorem dropWrite_res (s : State) : (dropWrite s).res = s.res := rfl
@[simp] theorem dropWrite_status (s : State) : (dropWrite s).status = s.status.overrun := rfl
@[simp] theorem dropWrite_pending (s : State) : (dropWrite s).pending = s.pending := rfl
@[simp] theorem dropWrite_buf (s : State) : (dropWrite s).buf = s.buf := rfl
@[simp] theorem dropWrite_params (s : State) : (dropWrite s).params = s.params := rfl
@[simp] theorem dropWrite_resetEpoch (s : State) : (dropWrite s).resetEpoch = s.resetEpoch := rfl
@[simp] theorem dropWrite_agenda (s : State) : (dropWrite s).agenda = s.agenda := rfl
@[simp] theorem dropWrite_received (s : State) : (dropWrite s).received = s.received := rfl

/-! ### `receive` -/

@[simp] theorem receive_ops (s : State) (v : Word) : (receive s v).ops = s.ops := rfl
@[simp] theorem receive_res (s : State) (v : Word) : (receive s v).res = s.res := rfl
@[simp] theorem receive_status (s : State) (v : Word) : (receive s v).status = s.status := rfl
@[simp] theorem receive_pending (s : State) (v : Word) : (receive s v).pending = s.pending := rfl
@[simp] theorem receive_buf (s : State) (v : Word) : (receive s v).buf = s.buf := rfl
@[simp] theorem receive_params (s : State) (v : Word) : (receive s v).params = s.params := rfl
@[simp] theorem receive_resetEpoch (s : State) (v : Word) : (receive s v).resetEpoch = s.resetEpoch := rfl
@[simp] theorem receive_agenda (s : State) (v : Word) : (receive s v).agenda = s.agenda := rfl
@[simp] theorem receive_received (s : State) (v : Word) : (receive s v).received = v :: s.received := rfl

/-! ### `softReset` -/

@[simp] theorem softReset_ops (s : State) : (softReset s).ops = {} := rfl
@[simp] theorem softReset_res (s : State) : (softReset s).res = {} := rfl
@[simp] theorem softReset_status (s : State) : (softReset s).status = {} := rfl
@[simp] theorem softReset_pending (s : State) : (softReset s).pending = 0#32 := rfl
@[simp] theorem softReset_buf (s : State) : (softReset s).buf = s.buf := rfl
@[simp] theorem softReset_params (s : State) : (softReset s).params = s.params := rfl
@[simp] theorem softReset_resetEpoch (s : State) : (softReset s).resetEpoch = s.resetEpoch := rfl
@[simp] theorem softReset_agenda (s : State) : (softReset s).agenda = s.agenda := rfl
@[simp] theorem softReset_received (s : State) : (softReset s).received = s.received := rfl

/-! ### `hardwareReset` -/

@[simp] theorem hardwareReset_ops (s : State) : (hardwareReset s).ops = {} := rfl
@[simp] theorem hardwareReset_res (s : State) : (hardwareReset s).res = {} := rfl
@[simp] theorem hardwareReset_status (s : State) : (hardwareReset s).status = {} := rfl
@[simp] theorem hardwareReset_pending (s : State) : (hardwareReset s).pending = 0#32 := rfl
@[simp] theorem hardwareReset_buf (s : State) : (hardwareReset s).buf = [] := rfl
@[simp] theorem hardwareReset_params (s : State) : (hardwareReset s).params = s.params := rfl
@[simp] theorem hardwareReset_resetEpoch (s : State) : (hardwareReset s).resetEpoch = s.resetEpoch + 1 := rfl
@[simp] theorem hardwareReset_agenda (s : State) : (hardwareReset s).agenda = s.agenda := rfl
@[simp] theorem hardwareReset_received (s : State) : (hardwareReset s).received = s.received := rfl

/-! ### `placeCommand` -/

@[simp] theorem placeCommand_ops (s : State) (v : Word) : (placeCommand s v).ops = s.ops := rfl
@[simp] theorem placeCommand_res (s : State) (v : Word) : (placeCommand s v).res = s.res := rfl
@[simp] theorem placeCommand_status (s : State) (v : Word) : (placeCommand s v).status = s.status.accepted (v.extractLsb' 0 8) := rfl
@[simp] theorem placeCommand_pending (s : State) (v : Word) : (placeCommand s v).pending = v := rfl
@[simp] theorem placeCommand_buf (s : State) (v : Word) : (placeCommand s v).buf = s.buf := rfl
@[simp] theorem placeCommand_params (s : State) (v : Word) : (placeCommand s v).params = s.params := rfl
@[simp] theorem placeCommand_resetEpoch (s : State) (v : Word) : (placeCommand s v).resetEpoch = s.resetEpoch := rfl
@[simp] theorem placeCommand_agenda (s : State) (v : Word) : (placeCommand s v).agenda = [] := rfl
@[simp] theorem placeCommand_received (s : State) (v : Word) : (placeCommand s v).received = s.received := rfl

/-! ### `Status.accepted` -/

@[simp] theorem Status.accepted_busy (st : Status) (c : BitVec 8) : (st.accepted c).busy = true := rfl
@[simp] theorem Status.accepted_done (st : Status) (c : BitVec 8) : (st.accepted c).done = false := rfl
@[simp] theorem Status.accepted_ok (st : Status) (c : BitVec 8) : (st.accepted c).ok = false := rfl
@[simp] theorem Status.accepted_ovr (st : Status) (c : BitVec 8) : (st.accepted c).ovr = st.ovr := rfl
@[simp] theorem Status.accepted_kind (st : Status) (c : BitVec 8) : (st.accepted c).kind = 0#3 := rfl
@[simp] theorem Status.accepted_code (st : Status) (c : BitVec 8) : (st.accepted c).code = 0#8 := rfl
@[simp] theorem Status.accepted_op (st : Status) (c : BitVec 8) : (st.accepted c).op = c := rfl

/-! ### `Status.succeeded` -/

@[simp] theorem Status.succeeded_busy (st : Status) : (st.succeeded).busy = false := rfl
@[simp] theorem Status.succeeded_done (st : Status) : (st.succeeded).done = true := rfl
@[simp] theorem Status.succeeded_ok (st : Status) : (st.succeeded).ok = true := rfl
@[simp] theorem Status.succeeded_ovr (st : Status) : (st.succeeded).ovr = st.ovr := rfl
@[simp] theorem Status.succeeded_kind (st : Status) : (st.succeeded).kind = 0#3 := rfl
@[simp] theorem Status.succeeded_code (st : Status) : (st.succeeded).code = 0#8 := rfl
@[simp] theorem Status.succeeded_op (st : Status) : (st.succeeded).op = st.op := rfl

/-! ### `Status.failed` -/

@[simp] theorem Status.failed_busy (st : Status) (e : CmdError) : (st.failed e).busy = false := rfl
@[simp] theorem Status.failed_done (st : Status) (e : CmdError) : (st.failed e).done = true := rfl
@[simp] theorem Status.failed_ok (st : Status) (e : CmdError) : (st.failed e).ok = false := rfl
@[simp] theorem Status.failed_ovr (st : Status) (e : CmdError) : (st.failed e).ovr = st.ovr := rfl
@[simp] theorem Status.failed_kind (st : Status) (e : CmdError) : (st.failed e).kind = kindNumber (errorKind e) := rfl
@[simp] theorem Status.failed_code (st : Status) (e : CmdError) : (st.failed e).code = errorCode e := rfl
@[simp] theorem Status.failed_op (st : Status) (e : CmdError) : (st.failed e).op = st.op := rfl

/-! ### `Status.overrun` -/

@[simp] theorem Status.overrun_busy (st : Status) : (st.overrun).busy = st.busy := rfl
@[simp] theorem Status.overrun_done (st : Status) : (st.overrun).done = st.done := rfl
@[simp] theorem Status.overrun_ok (st : Status) : (st.overrun).ok = st.ok := rfl
@[simp] theorem Status.overrun_ovr (st : Status) : (st.overrun).ovr = true := rfl
@[simp] theorem Status.overrun_kind (st : Status) : (st.overrun).kind = st.kind := rfl
@[simp] theorem Status.overrun_code (st : Status) : (st.overrun).code = st.code := rfl
@[simp] theorem Status.overrun_op (st : Status) : (st.overrun).op = st.op := rfl

/-! ### Reading bytes after an update that leaves the buffer alone -/

@[simp] theorem byte_raiseError (s : State) (e : CmdError) (a : Nat) : (raiseError s e).byte a = s.byte a := rfl
@[simp] theorem byte_accept (s : State) (v : Word) (a : Nat) : (accept s v).byte a = s.byte a := rfl
@[simp] theorem byte_dropWrite (s : State) (a : Nat) : (dropWrite s).byte a = s.byte a := rfl
@[simp] theorem byte_receive (s : State) (v : Word) (a : Nat) : (receive s v).byte a = s.byte a := rfl
@[simp] theorem byte_softReset (s : State) (a : Nat) : (softReset s).byte a = s.byte a := rfl
@[simp] theorem byte_succeed_nil (s : State) (r : Results) (a : Nat) :
    (succeed s { regs := r, stores := [] }).byte a = s.byte a := rfl

/-- After a hardware reset every byte is the draw of the new epoch (10 R45). -/
@[simp] theorem byte_hardwareReset (s : State) (a : Nat) :
    (hardwareReset s).byte a = Config.bufAtReset (s.resetEpoch + 1) a := rfl

end Sys2Proof.Machine
end

