-- ==== Sys2Proof/Laws/Memory.lean ====
section
/-! SUPPORT. The laws of the byte memory: read after write, every operation keeps the canonical form and the bound, and
what `State.byte` reads after the stores of a command. -/

namespace Sys2Proof.Machine

@[simp] theorem Memory.read_nil (a : Nat) : Memory.read [] a = none := rfl

@[simp] theorem Memory.read_cons (b : Nat) (v : Byte) (m : Memory) (a : Nat) :
    Memory.read ((b, v) :: m) a = if a = b then some v else Memory.read m a := rfl

/-- Reading the byte just written. -/
@[simp] theorem Memory.read_write_same (m : Memory) (a : Nat) (v : Byte) :
    Memory.read (Memory.write m a v) a = some v := by
  induction m with
  | nil => simp [Memory.write]
  | cons c m ih =>
    obtain ⟨b, w⟩ := c
    unfold Memory.write
    split_ifs with h₁ h₂
    · simp
    · simp
    · simp [h₂, ih]

/-- A write leaves every other byte alone. -/
theorem Memory.read_write_ne {a x : Nat} (m : Memory) (v : Byte) (h : x ≠ a) :
    Memory.read (Memory.write m a v) x = Memory.read m x := by
  induction m with
  | nil => simp [Memory.write, h]
  | cons c m ih =>
    obtain ⟨b, w⟩ := c
    unfold Memory.write
    split_ifs with h₁ h₂
    · simp [h]
    · subst h₂; simp [h]
    · by_cases hx : x = b <;> simp [hx, ih]

theorem Memory.read_write (m : Memory) (a : Nat) (v : Byte) (x : Nat) :
    Memory.read (Memory.write m a v) x = if x = a then some v else Memory.read m x := by
  split_ifs with h
  · subst h; simp
  · exact Memory.read_write_ne m v h

theorem Memory.risingFrom_mono {lo lo' : Nat} (h : lo' ≤ lo) :
    ∀ {m : Memory}, Memory.risingFrom lo m = true → Memory.risingFrom lo' m = true
  | [], _ => rfl
  | (a, _) :: m, hm => by
    simp only [Memory.risingFrom, Bool.and_eq_true, decide_eq_true_eq] at hm ⊢
    exact ⟨le_trans h hm.1, hm.2⟩

theorem Memory.risingFrom_write {lo a : Nat} (v : Byte) (ha : lo ≤ a) :
    ∀ {m : Memory}, Memory.risingFrom lo m = true → Memory.risingFrom lo (Memory.write m a v) = true := by
  intro m
  induction m generalizing lo with
  | nil => intro _; simpa [Memory.write, Memory.risingFrom] using ha
  | cons c m ih =>
    obtain ⟨b, w⟩ := c
    intro hm
    simp only [Memory.risingFrom, Bool.and_eq_true, decide_eq_true_eq] at hm
    unfold Memory.write
    split_ifs with h₁ h₂
    · simp only [Memory.risingFrom, Bool.and_eq_true, decide_eq_true_eq]
      exact ⟨ha, by omega, hm.2⟩
    · subst h₂
      simp only [Memory.risingFrom, Bool.and_eq_true, decide_eq_true_eq]
      exact ⟨ha, hm.2⟩
    · simp only [Memory.risingFrom, Bool.and_eq_true, decide_eq_true_eq]
      exact ⟨hm.1, ih (by omega) hm.2⟩

/-- A write keeps the canonical form. -/
theorem Memory.wf_write {m : Memory} (a : Nat) (v : Byte) (h : Memory.wf m = true) :
    Memory.wf (Memory.write m a v) = true :=
  Memory.risingFrom_write v (Nat.zero_le a) h

/-- A write inside the buffer keeps every listed offset inside the buffer. -/
theorem Memory.within_write {n : Nat} {m : Memory} {a : Nat} (v : Byte) (ha : a < n)
    (h : Memory.within n m = true) : Memory.within n (Memory.write m a v) = true := by
  induction m with
  | nil => simpa [Memory.write, Memory.within] using ha
  | cons c m ih =>
    obtain ⟨b, w⟩ := c
    simp only [Memory.within, List.all_cons, Bool.and_eq_true, decide_eq_true_eq] at h ih ⊢
    unfold Memory.write
    split_ifs with h₁ h₂
    · simp only [List.all_cons, Bool.and_eq_true, decide_eq_true_eq]
      exact ⟨ha, h.1, h.2⟩
    · simp only [List.all_cons, Bool.and_eq_true, decide_eq_true_eq]
      exact ⟨ha, h.2⟩
    · simp only [List.all_cons, Bool.and_eq_true, decide_eq_true_eq]
      exact ⟨h.1, ih h.2⟩

@[simp] theorem Memory.writeAll_nil (m : Memory) : Memory.writeAll m [] = m := rfl

@[simp] theorem Memory.writeAll_cons (m : Memory) (c : Host.Cell) (cs : List Host.Cell) :
    Memory.writeAll m (c :: cs) = Memory.writeAll (Memory.write m c.1 c.2) cs := rfl

/-- A list of stores keeps the canonical form. -/
theorem Memory.wf_writeAll (cs : List Host.Cell) :
    ∀ {m : Memory}, Memory.wf m = true → Memory.wf (Memory.writeAll m cs) = true := by
  induction cs with
  | nil => intro m h; exact h
  | cons c cs ih => intro m h; exact ih (Memory.wf_write c.1 c.2 h)

/-- A list of stores inside the buffer keeps every listed offset inside the buffer. -/
theorem Memory.within_writeAll {n : Nat} (cs : List Host.Cell) (hcs : ∀ c ∈ cs, c.1 < n) :
    ∀ {m : Memory}, Memory.within n m = true → Memory.within n (Memory.writeAll m cs) = true := by
  induction cs with
  | nil => intro m h; exact h
  | cons c cs ih =>
    intro m h
    exact ih (fun d hd => hcs d (List.mem_cons_of_mem _ hd))
      (Memory.within_write c.2 (hcs c (by simp)) h)

/-- A list of stores leaves every offset it does not name alone. -/
theorem Memory.read_writeAll_of_not_mem (cs : List Host.Cell) {x : Nat} (hx : ∀ c ∈ cs, c.1 ≠ x) :
    ∀ m : Memory, Memory.read (Memory.writeAll m cs) x = Memory.read m x := by
  induction cs with
  | nil => intro m; rfl
  | cons c cs ih =>
    intro m
    rw [Memory.writeAll_cons, ih (fun d hd => hx d (List.mem_cons_of_mem _ hd)),
      Memory.read_write_ne _ _ (hx c (by simp)).symm]

/-- The last store to an offset is what it reads: a store not named again later in the list. -/
theorem Memory.read_writeAll_append (cs ds : List Host.Cell) (a : Nat) (v : Byte) (hd : ∀ c ∈ ds, c.1 ≠ a)
    (m : Memory) : Memory.read (Memory.writeAll m (cs ++ (a, v) :: ds)) a = some v := by
  have : Memory.writeAll m (cs ++ (a, v) :: ds)
      = Memory.writeAll (Memory.write (Memory.writeAll m cs) a v) ds := by
    simp [Memory.writeAll, List.foldl_append]
  rw [this, Memory.read_writeAll_of_not_mem ds hd, Memory.read_write_same]

/-! ### The bytes of the state after a command's stores -/

/-- What a completion without error leaves in a byte none of its stores names. -/
theorem byte_succeed_of_not_mem {s : State} {d : Done} {x : Nat} (hx : ∀ c ∈ d.stores, c.1 ≠ x) :
    (succeed s d).byte x = s.byte x := by
  simp only [State.byte, succeed_buf, succeed_resetEpoch, Memory.read_writeAll_of_not_mem _ hx]

/-- What a completion without error leaves in the byte of a store that no later store names again. -/
theorem byte_succeed_store {s : State} {r : Results} {cs ds : List Host.Cell} {a : Nat} {v : Byte}
    (hd : ∀ c ∈ ds, c.1 ≠ a) :
    (succeed s { regs := r, stores := cs ++ (a, v) :: ds }).byte a = v := by
  simp only [State.byte, succeed_buf, Memory.read_writeAll_append cs ds a v hd]

theorem mem_cells2 {a : Nat} {v : Half} {c : Host.Cell} (h : c ∈ cells2 a v) : c.1 = a ∨ c.1 = a + 1 := by
  simp only [cells2, List.mem_cons, List.not_mem_nil, or_false] at h
  rcases h with rfl | rfl <;> simp

theorem mem_cells4 {a : Nat} {v : Word} {c : Host.Cell} (h : c ∈ cells4 a v) : a ≤ c.1 ∧ c.1 < a + 4 := by
  simp only [cells4, List.mem_cons, List.not_mem_nil, or_false] at h
  rcases h with rfl | rfl | rfl | rfl <;> simp

theorem mem_zeroCells {c : Host.Cell} : ∀ {a n : Nat}, c ∈ zeroCells a n → a ≤ c.1 ∧ c.1 < a + n ∧ c.2 = 0#8
  | _, 0, h => by simp [zeroCells] at h
  | a, n + 1, h => by
    simp only [zeroCells, List.mem_cons] at h
    rcases h with rfl | h
    · simp
    · obtain ⟨h₁, h₂, h₃⟩ := mem_zeroCells h
      exact ⟨by omega, by omega, h₃⟩

end Sys2Proof.Machine
end

