-- ==== Sys2Proof/Laws/Completion.lean ====
section
/-! SUPPORT. What a completion can do: the two cases of 60 R340, the range check, and each row's meaning as the completion
of one rule over the parameters, the operands and the bytes. -/

namespace Sys2Proof.Machine

@[simp] theorem complete_ok (s : State) (d : Done) : complete s (.ok d) = .next (succeed s d) := rfl

@[simp] theorem complete_error (s : State) (e : CmdError) : complete s (.error e) = .next (raiseError s e) := rfl

/-- Everything a completion can do. -/
theorem complete_next_cases {s t : State} {r : Rule} (h : complete s r = .next t) :
    (∃ d, r = .ok d ∧ t = succeed s d) ∨ (∃ e, r = .error e ∧ t = raiseError s e) := by
  cases r with
  | ok d => exact .inl ⟨d, rfl, by simpa using h.symm⟩
  | error e => exact .inr ⟨e, rfl, by simpa using h.symm⟩

/-- The range check passes exactly on a region inside `BUF` (20 R66). -/
theorem inRange_iff {p : Params} {o : Operands} :
    inRange p o = true ↔ o.a0.toNat + o.a1.toNat ≤ p.bufBytes := by
  simp [inRange, Operands.base, Operands.len]

theorem guardRegion_of_le {p : Params} {o : Operands} (h : o.a0.toNat + o.a1.toNat ≤ p.bufBytes) (r : Rule) :
    guardRegion p o r = r := by
  simp [guardRegion, inRange_iff.2 h]

theorem guardRegion_of_gt {p : Params} {o : Operands} (h : p.bufBytes < o.a0.toNat + o.a1.toNat) (r : Rule) :
    guardRegion p o r = .error .operandRange := by
  have : inRange p o = false := by
    simp only [inRange, Operands.base, Operands.len, decide_eq_false_iff_not]; omega
  simp [guardRegion, this]

/-- A rule with a region that ran to its end had its region inside `BUF`. -/
theorem guardRegion_ok {p : Params} {o : Operands} {r : Rule} {d : Done} (h : guardRegion p o r = .ok d) :
    o.base + o.len ≤ p.bufBytes ∧ r = .ok d := by
  unfold guardRegion at h
  split at h
  · rename_i hr; exact ⟨by simpa [inRange] using hr, h⟩
  · cases h

theorem oc16Guard_ok {p : Params} {o : Operands} {d d' : Done} (h : oc16Guard p o d = .ok d') :
    o.base + o.len ≤ p.bufBytes ∧ o.len % 2 ≠ 1 ∧ d' = d := by
  obtain ⟨hr, h⟩ := guardRegion_ok h
  split at h
  · cases h
  · rename_i hp; cases h; exact ⟨hr, hp, rfl⟩

theorem crc32cGuard_ok {p : Params} {o : Operands} {d d' : Done} (h : crc32cGuard p o d = .ok d') :
    o.base + o.len ≤ p.bufBytes ∧ o.ckOff + 4 ≤ o.len ∧ d' = d := by
  obtain ⟨hr, h⟩ := guardRegion_ok h
  split at h
  · cases h
  · rename_i hp; cases h; exact ⟨hr, by omega, rfl⟩

theorem icmpPrefix_ok {p : Params} {o : Operands} {r : Rule} {d : Done} (h : icmpPrefix p o r = .ok d) :
    o.base + o.len ≤ p.bufBytes ∧ 4 ≤ o.len ∧ r = .ok d := by
  obtain ⟨hr, h⟩ := guardRegion_ok h
  split at h
  · cases h
  · rename_i hp; exact ⟨hr, by omega, h⟩

/-- The rule a row evaluates, as a function of the parameters, the operands and the bytes alone (10 R28). `SRST` has a
completion of its own (46 R322) and no rule. -/
def ruleOf : Instr → Params → Operands → (Nat → Byte) → Option Rule
  | .nop, _, _, _ => some (.ok {})
  | .oc16Gen, p, o, rd => some (oc16GenRule p o rd)
  | .oc16Val, p, o, rd => some (oc16ValRule p o rd)
  | .crc32cGen, p, o, rd => some (crc32cGenRule p o rd)
  | .crc32cVal, p, o, rd => some (crc32cValRule p o rd)
  | .padAlign4, _, o, _ => some (padAlign4Rule o)
  | .ip4HdrParse, p, o, rd => some (ip4HdrParseRule p o rd)
  | .ip4DgramParse, p, o, rd => some (ip4DgramParseRule p o rd)
  | .ip4CsumPatch, p, o, rd => some (ip4CsumPatchRule p o rd)
  | .icmpParse, p, o, rd => some (icmpParseRule p o rd)
  | .icmpCsumPatch, p, o, rd => some (icmpCsumPatchRule p o rd)
  | .sctpHdrParse, p, o, rd => some (sctpHdrParseRule p o rd)
  | .sctpPktCheck, p, o, rd => some (sctpPktCheckRule p o rd)
  | .sctpPktWalk, p, o, rd => some (sctpPktWalkRule p o rd)
  | .sctpCsumPatch, p, o, rd => some (sctpCsumPatchRule p o rd)
  | .sctpChunkNext, p, o, rd => some (sctpChunkNextRule p o rd)
  | .sctpChunkFrame, p, o, _ => some (sctpChunkFrameRule p o)
  | .srst, _, _, _ => none
  | .icmpTypeEchoReply, p, o, rd => some (icmpRowRule .echo true p o rd)
  | .icmpTypeDestUnreachable, p, o, rd => some (icmpRowRule .destUnreachable false p o rd)
  | .icmpTypeSourceQuench, p, o, rd => some (icmpRowRule .sourceQuench false p o rd)
  | .icmpTypeRedirect, p, o, rd => some (icmpRowRule .redirect false p o rd)
  | .icmpTypeEcho, p, o, rd => some (icmpRowRule .echo false p o rd)
  | .icmpTypeTimeExceeded, p, o, rd => some (icmpRowRule .timeExceeded false p o rd)
  | .icmpTypeParameterProblem, p, o, rd => some (icmpRowRule .parameterProblem false p o rd)
  | .icmpTypeTimestamp, p, o, rd => some (icmpRowRule .timestamp false p o rd)
  | .icmpTypeTimestampReply, p, o, rd => some (icmpRowRule .timestamp true p o rd)
  | .icmpTypeInfoRequest, p, o, rd => some (icmpRowRule .information false p o rd)
  | .icmpTypeInfoReply, p, o, rd => some (icmpRowRule .information true p o rd)
  | .chunkTypeData, p, o, rd => some (chunkRowRule .data p o rd)
  | .chunkTypeInit, p, o, rd => some (chunkRowRule .init p o rd)
  | .chunkTypeInitAck, p, o, rd => some (chunkRowRule .initAck p o rd)
  | .chunkTypeSack, p, o, rd => some (chunkRowRule .sack p o rd)
  | .chunkTypeHeartbeat, p, o, rd => some (chunkRowRule .heartbeat p o rd)
  | .chunkTypeHeartbeatAck, p, o, rd => some (chunkRowRule .heartbeatAck p o rd)
  | .chunkTypeAbort, p, o, rd => some (chunkRowRule .abort p o rd)
  | .chunkTypeShutdown, p, o, rd => some (chunkRowRule .shutdown p o rd)
  | .chunkTypeShutdownAck, p, o, rd => some (chunkRowRule .shutdownAck p o rd)
  | .chunkTypeError, p, o, rd => some (chunkRowRule .error p o rd)
  | .chunkTypeCookieEcho, p, o, rd => some (chunkRowRule .cookieEcho p o rd)
  | .chunkTypeCookieAck, p, o, rd => some (chunkRowRule .cookieAck p o rd)
  | .chunkTypeReserved1, p, o, rd => some (chunkRowRule .reserved1 p o rd)
  | .chunkTypeReserved2, p, o, rd => some (chunkRowRule .reserved2 p o rd)
  | .chunkTypeShutdownComplete, p, o, rd => some (chunkRowRule .shutdownComplete p o rd)

/-- Everything a row's meaning can do: `SRST` resets the registers, every other row completes its rule. -/
theorem exec_eq (i : Instr) (s : State) :
    exec i s = match ruleOf i s.params s.ops s.byte with
      | some r => complete s r
      | none => .next (softReset s) := by
  cases i <;> rfl

theorem ruleOf_eq_none {i : Instr} {p : Params} {o : Operands} {rd : Nat → Byte} :
    ruleOf i p o rd = none ↔ i = .srst := by
  cases i <;> simp [ruleOf]

/-- Everything a row that answers a next state can have done. -/
theorem exec_next_cases {i : Instr} {s t : State} (h : exec i s = .next t) :
    (i = .srst ∧ t = softReset s)
    ∨ (∃ d, ruleOf i s.params s.ops s.byte = some (.ok d) ∧ t = succeed s d)
    ∨ (∃ e, ruleOf i s.params s.ops s.byte = some (.error e) ∧ t = raiseError s e) := by
  rw [exec_eq] at h
  cases hr : ruleOf i s.params s.ops s.byte with
  | none => rw [hr] at h; exact .inl ⟨ruleOf_eq_none.1 hr, by simpa using h.symm⟩
  | some r =>
    rw [hr] at h
    rcases complete_next_cases h with ⟨d, rfl, rfl⟩ | ⟨e, rfl, rfl⟩
    · exact .inr (.inl ⟨d, rfl, rfl⟩)
    · exact .inr (.inr ⟨e, rfl, rfl⟩)

end Sys2Proof.Machine
end

