-- ==== Sys2Proof/Laws/Reading.lean ====
section
/-! SUPPORT. Reading a region: big-endian fields as natural numbers, and every reading function depends on the bytes of
its own range alone. -/

namespace Sys2Proof.Machine

/-- Two byte readers agree on `[lo, hi)`. -/
def AgreeOn (rd rd' : Nat → Byte) (lo hi : Nat) : Prop := ∀ a, lo ≤ a → a < hi → rd a = rd' a

theorem AgreeOn.mono {rd rd' : Nat → Byte} {lo hi lo' hi' : Nat} (h : AgreeOn rd rd' lo hi) (hl : lo ≤ lo')
    (hh : hi' ≤ hi) : AgreeOn rd rd' lo' hi' :=
  fun a h₁ h₂ => h a (le_trans hl h₁) (lt_of_lt_of_le h₂ hh)

/-! ### Big-endian values (00 R10) -/

theorem toNat_append {n m : Nat} (x : BitVec n) (y : BitVec m) : (x ++ y).toNat = x.toNat * 2 ^ m + y.toNat := by
  rw [BitVec.toNat_append, Nat.shiftLeft_eq, Nat.mul_comm, Nat.two_pow_add_eq_or_of_lt y.isLt]

theorem memRead2_toNat (rd : Nat → Byte) (a : Nat) :
    (memRead2 rd a).toNat = (rd a).toNat * 256 + (rd (a + 1)).toNat :=
  toNat_append (rd a) (rd (a + 1))

theorem memRead4_toNat (rd : Nat → Byte) (a : Nat) :
    (memRead4 rd a).toNat
      = (((rd a).toNat * 256 + (rd (a + 1)).toNat) * 256 + (rd (a + 2)).toNat) * 256 + (rd (a + 3)).toNat := by
  refine (toNat_append (rd a ++ rd (a + 1) ++ rd (a + 2)) (rd (a + 3))).trans ?_
  rw [toNat_append, toNat_append]; rfl

/-- The bytes `MemWrite(a, 2, v)` stores read back as `v` (00 R10). -/
theorem append_extract2 (v : Half) : v.extractLsb' 8 8 ++ v.extractLsb' 0 8 = v := by
  apply BitVec.eq_of_toNat_eq
  have := v.isLt
  refine (toNat_append (v.extractLsb' 8 8) (v.extractLsb' 0 8)).trans ?_
  simp only [BitVec.extractLsb'_toNat, Nat.shiftRight_eq_div_pow]
  omega

/-- The bytes `MemWrite(a, 4, v)` stores read back as `v` (00 R10). -/
theorem append_extract4 (v : Word) :
    v.extractLsb' 24 8 ++ v.extractLsb' 16 8 ++ v.extractLsb' 8 8 ++ v.extractLsb' 0 8 = v := by
  apply BitVec.eq_of_toNat_eq
  have := v.isLt
  refine (toNat_append (v.extractLsb' 24 8 ++ v.extractLsb' 16 8 ++ v.extractLsb' 8 8) (v.extractLsb' 0 8)).trans ?_
  rw [toNat_append, toNat_append]
  simp only [BitVec.extractLsb'_toNat, Nat.shiftRight_eq_div_pow]
  omega

/-! ### Fields of the wire formats as numbers -/

theorem high_nibble_toNat (b : Byte) : (b.extractLsb' 4 4).toNat = b.toNat / 16 := by
  have := b.isLt
  simp only [BitVec.extractLsb'_toNat, Nat.shiftRight_eq_div_pow]
  omega

theorem low_nibble_toNat (b : Byte) : (b.extractLsb' 0 4).toNat = b.toNat % 16 := by
  simp [BitVec.extractLsb'_toNat]

theorem setWidth_eq_ofNat {n : Nat} (x : BitVec n) : x.setWidth 32 = BitVec.ofNat 32 x.toNat :=
  BitVec.eq_of_toNat_eq (by simp)

theorem word_eq_ofNat (x : Word) : x = BitVec.ofNat 32 x.toNat := by simp

/-! ### Locality -/

theorem memRead2_congr {rd rd' : Nat → Byte} {a : Nat} (h : AgreeOn rd rd' a (a + 2)) :
    memRead2 rd a = memRead2 rd' a := by
  unfold memRead2
  rw [h a (by omega) (by omega), h (a + 1) (by omega) (by omega)]

theorem memRead4_congr {rd rd' : Nat → Byte} {a : Nat} (h : AgreeOn rd rd' a (a + 4)) :
    memRead4 rd a = memRead4 rd' a := by
  unfold memRead4
  rw [h a (by omega) (by omega), h (a + 1) (by omega) (by omega), h (a + 2) (by omega) (by omega),
    h (a + 3) (by omega) (by omega)]

theorem ocSumWords_congr {rd rd' : Nat → Byte} {base : Nat} :
    ∀ {k : Nat}, AgreeOn rd rd' base (base + 2 * k) → ocSumWords rd base k = ocSumWords rd' base k
  | 0, _ => rfl
  | k + 1, h => by
    unfold ocSumWords
    rw [ocSumWords_congr (h.mono le_rfl (by omega)), memRead2_congr (h.mono (by omega) (by omega))]

/-- The sum of a region depends on the region's bytes alone. -/
theorem ocSum_congr {rd rd' : Nat → Byte} {base n : Nat} (h : AgreeOn rd rd' base (base + n)) :
    ocSum rd base n = ocSum rd' base n :=
  ocSumWords_congr (h.mono le_rfl (by omega))

theorem ocGenZ_congr {rd rd' : Nat → Byte} {base n z : Nat} (hz : z + 2 ≤ n) (h : AgreeOn rd rd' base (base + n)) :
    ocGenZ rd base n z = ocGenZ rd' base n z := by
  unfold ocGenZ ocSumZ
  rw [ocSum_congr h, memRead2_congr (h.mono (by omega) (by omega))]

/-- The CRC register depends on the bytes consumed alone, but for the four of the checksum field (41 R164 a). -/
theorem crcRegister_congr {rd rd' : Nat → Byte} {base k : Nat} :
    ∀ {n : Nat}, (∀ i < n, ¬(k ≤ i ∧ i < k + 4) → rd (base + i) = rd' (base + i)) →
      crcRegister rd base k n = crcRegister rd' base k n
  | 0, _ => rfl
  | n + 1, h => by
    unfold crcRegister
    rw [crcRegister_congr (fun i hi => h i (by omega))]
    congr 1
    unfold crcByte
    split
    · rfl
    · rename_i hk; exact h n (by omega) hk

theorem crc32c_congr {rd rd' : Nat → Byte} {base n k : Nat}
    (h : ∀ i < n, ¬(k ≤ i ∧ i < k + 4) → rd (base + i) = rd' (base + i)) :
    crc32c rd base n k = crc32c rd' base n k := by
  unfold crc32c; rw [crcRegister_congr h]

theorem ip4Fields_congr {rd rd' : Nat → Byte} {base : Nat} (h : AgreeOn rd rd' base (base + 20)) :
    ip4Fields rd base = ip4Fields rd' base := by
  unfold ip4Fields
  rw [h base (by omega) (by omega), h (base + 1) (by omega) (by omega), h (base + 8) (by omega) (by omega),
    h (base + 9) (by omega) (by omega), memRead2_congr (h.mono (by omega) (by omega) : AgreeOn _ _ (base + 2) _),
    memRead2_congr (h.mono (by omega) (by omega) : AgreeOn _ _ (base + 4) _),
    memRead2_congr (h.mono (by omega) (by omega) : AgreeOn _ _ (base + 6) _),
    memRead2_congr (h.mono (by omega) (by omega) : AgreeOn _ _ (base + 10) _),
    memRead4_congr (h.mono (by omega) (by omega) : AgreeOn _ _ (base + 12) _),
    memRead4_congr (h.mono (by omega) (by omega) : AgreeOn _ _ (base + 16) _)]

end Sys2Proof.Machine
end

