-- ==== Sys2Proof/Laws/Checks.lean ====
section
/-! SUPPORT. What it means that a decoder's checks pass: one lemma for each shared decode function, and the arithmetic of
padding and folding that every user of them needs. -/

namespace Sys2Proof.Machine

/-! ### Padding (00 R12, 45 R287) -/

theorem le_align4 (n : Nat) : n ≤ align4 n := by unfold align4; omega

theorem align4_lt (n : Nat) : align4 n < n + 4 := by unfold align4; omega

theorem align4_mod (n : Nat) : align4 n % 4 = 0 := by unfold align4; omega

theorem add_pad4 (n : Nat) : n + pad4 n = align4 n := by have := le_align4 n; unfold pad4; omega

/-! ### Folding (40 R141) -/

theorem foldOnce_mod (S : Nat) : foldOnce S % 65535 = S % 65535 := by unfold foldOnce; omega

/-! ### The decoders -/

/-- `Ip4Header` returns exactly when every check of 42 R181 passes. -/
theorem ip4Header_ok_iff {rd : Nat → Byte} {base len : Nat} {h : Ip4Fields} :
    ip4Header rd base len = .ok h ↔
      h = ip4Fields rd base ∧ 20 ≤ len ∧ h.version = 4#4 ∧ 5 ≤ h.ihl.toNat ∧ ip4HdrLen h ≤ len
        ∧ h.headerChecksum.toNat = ocGenZ rd base (ip4HdrLen h) 10 ∧ ip4HdrLen h ≤ h.totalLength.toNat := by
  unfold ip4Header
  constructor
  · intro hh
    split at hh
    · cases hh
    · dsimp only at hh
      split at hh
      · cases hh
      · split at hh
        · cases hh
        · split at hh
          · cases hh
          · split at hh
            · cases hh
            · split at hh
              · cases hh
              · rename_i h₁ h₂ h₃ h₄ h₅ h₆
                cases hh
                exact ⟨rfl, by omega, not_not.1 h₂, by omega, by omega, not_not.1 h₅, by omega⟩
  · rintro ⟨rfl, h₁, h₂, h₃, h₄, h₅, h₆⟩
    rw [if_neg (by omega), if_neg (not_not.2 h₂), if_neg (by omega), if_neg (by omega), if_neg (not_not.2 h₅),
      if_neg (by omega)]

/-- The message length lies inside the region. -/
theorem icmpLength_le {p : Params} {rd : Nat → Byte} {kind : IcmpKind} {base len mlen : Nat}
    (h : icmpLength p rd kind base len = .ok mlen) : mlen ≤ len ∧ 8 ≤ mlen := by
  unfold icmpLength at h
  cases kind <;> simp only at h
  case echo =>
    split at h
    · cases h
    · cases h; omega
  case timestamp =>
    split at h
    · cases h
    · cases h; omega
  case information =>
    split at h
    · cases h
    · cases h; omega
  all_goals
    split at h
    · cases h
    · split at h
      · cases h
      · split at h
        · cases h
        · cases h; omega

/-- The checks of 43 R212 steps 3 to 5 pass exactly when the length rule gives an even `MLEN` whose checksum is the
field. -/
theorem icmpCheck_ok_iff {p : Params} {rd : Nat → Byte} {kind : IcmpKind} {base len mlen : Nat} :
    icmpCheck p rd kind base len = .ok mlen ↔
      icmpLength p rd kind base len = .ok mlen ∧ mlen % 2 = 0
        ∧ (memRead2 rd (base + 2)).toNat = ocGenZ rd base mlen 2 := by
  unfold icmpCheck
  cases hl : icmpLength p rd kind base len with
  | error e => simp
  | ok m =>
    constructor
    · intro h
      simp only at h
      split at h
      · cases h
      · split at h
        · cases h
        · rename_i h₁ h₂; cases h; exact ⟨rfl, by omega, not_not.1 h₂⟩
    · rintro ⟨h₀, h₁, h₂⟩
      cases h₀
      simp only
      rw [if_neg (by omega), if_neg (not_not.2 h₂)]

/-- A chunk is framed exactly when its length satisfies the kind's rule and its padded length fits (45 R281). -/
theorem chunkDispatched_ok_iff {p : Params} {rd : Nat → Byte} {kind : ChunkKind} {cur rem : Nat} {c : Chunk} :
    chunkDispatched p rd kind cur rem = .ok c ↔
      c = { type := rd cur, flags := rd (cur + 1), length := (memRead2 rd (cur + 2)).toNat, kind := kind }
        ∧ 4 ≤ c.length ∧ chunkLenOk p.chunkTypes kind c.length = true ∧ chunkWireLen c ≤ rem := by
  unfold chunkDispatched
  constructor
  · intro h
    simp only at h
    split at h
    · cases h
    · split at h
      · cases h
      · rename_i h₁ h₂
        cases h
        rw [not_or] at h₁
        exact ⟨rfl, by simpa using h₁.1, by simpa using h₁.2, by simpa [chunkWireLen] using h₂⟩
  · rintro ⟨rfl, h₁, h₂, h₃⟩
    simp only at h₁ h₂
    simp only [chunkWireLen] at h₃
    simp only
    rw [if_neg (by rw [not_or]; exact ⟨by omega, by rw [h₂]; decide⟩), if_neg (by omega)]

/-- `Chunk(cur, rem)` returns exactly when the header is present, the type is in the table and the chunk is framed. -/
theorem chunkAt_ok_iff {p : Params} {rd : Nat → Byte} {cur rem : Nat} {c : Chunk} :
    chunkAt p rd cur rem = .ok c ↔
      4 ≤ rem ∧ chunkKindOf p.chunkTypes (rd cur) = some c.kind ∧ chunkDispatched p rd c.kind cur rem = .ok c := by
  unfold chunkAt
  by_cases hr : rem < 4
  · rw [if_pos hr]; exact ⟨fun h => (by cases h), fun h => absurd h.1 (by omega)⟩
  · rw [if_neg hr]
    cases hk : chunkKindOf p.chunkTypes (rd cur) with
    | none => simp
    | some k =>
      constructor
      · intro h
        have hc := (chunkDispatched_ok_iff.1 h).1
        have : c.kind = k := by rw [hc]
        exact ⟨by omega, by rw [this], by rw [this]; exact h⟩
      · rintro ⟨_, h₁, h₂⟩
        cases h₁
        exact h₂

/-- A framed chunk takes at least its 4 header bytes and no more than what remains (70 R390). -/
theorem chunkAt_wireLen {p : Params} {rd : Nat → Byte} {cur rem : Nat} {c : Chunk}
    (h : chunkAt p rd cur rem = .ok c) : 4 ≤ chunkWireLen c ∧ chunkWireLen c ≤ rem := by
  obtain ⟨_, _, hd⟩ := chunkAt_ok_iff.1 h
  obtain ⟨_, h₁, _, h₂⟩ := chunkDispatched_ok_iff.1 hd
  exact ⟨le_trans h₁ (le_align4 _), h₂⟩

/-- The fuel of the walk does not matter once it covers what remains (70 R390). -/
theorem walkChunks_fuel {p : Params} {rd : Nat → Byte} :
    ∀ {f g cur rem n : Nat}, rem ≤ f → rem ≤ g → walkChunks p rd f cur rem n = walkChunks p rd g cur rem n
  | 0, 0, _, _, _, _, _ => rfl
  | 0, g + 1, cur, rem, n, hf, _ => by
    have : rem = 0 := by omega
    simp [walkChunks, this]
  | f + 1, 0, cur, rem, n, _, hg => by
    have : rem = 0 := by omega
    simp [walkChunks, this]
  | f + 1, g + 1, cur, rem, n, hf, hg => by
    unfold walkChunks
    split
    · rfl
    · cases hc : chunkAt p rd cur rem with
      | error e => rfl
      | ok c =>
        have hw := chunkAt_wireLen hc
        exact walkChunks_fuel (by omega) (by omega)

/-! ### Where the stores of a rule lie (20 R66, R87) -/

theorem mem_frameCells {cur : Nat} {k : Chunk} {c : Host.Cell} (h : c ∈ frameCells cur k) :
    (cur ≤ c.1 ∧ c.1 < cur + 4) ∨ (cur + k.length ≤ c.1 ∧ c.1 < cur + chunkWireLen k ∧ c.2 = 0#8) := by
  simp only [frameCells, List.cons_append, List.mem_cons, List.mem_append] at h
  have hp := add_pad4 k.length
  rcases h with rfl | rfl | h | h
  · exact .inl ⟨by simp, by simp⟩
  · exact .inl ⟨by simp, by simp⟩
  · rcases mem_cells2 h with h | h <;> exact .inl ⟨by omega, by omega⟩
  · obtain ⟨h₁, h₂, h₃⟩ := mem_zeroCells h
    exact .inr ⟨h₁, by unfold chunkWireLen; omega, h₃⟩

end Sys2Proof.Machine
end

