-- ==== Sys2Proof/Laws/PerInstr.lean ====
section
/-! SUPPORT. Statements about every row, one lemma per constructor of `Instr`. -/

namespace Sys2Proof.Laws

/-- The row's encoding has the format the opcode table gives it, a command word being that of a command
(30 R90, R92, R105, R116). -/
def EncodeDecodes.Statement (i : Instr) : Prop :=
  decode (encode i) = .ok i ∧ ((commandWord i).isSome = i.isCommand)

theorem EncodeDecodes.nop : EncodeDecodes.Statement .nop := ⟨rfl, rfl⟩
theorem EncodeDecodes.oc16Gen : EncodeDecodes.Statement .oc16Gen := ⟨rfl, rfl⟩
theorem EncodeDecodes.oc16Val : EncodeDecodes.Statement .oc16Val := ⟨rfl, rfl⟩
theorem EncodeDecodes.crc32cGen : EncodeDecodes.Statement .crc32cGen := ⟨rfl, rfl⟩
theorem EncodeDecodes.crc32cVal : EncodeDecodes.Statement .crc32cVal := ⟨rfl, rfl⟩
theorem EncodeDecodes.padAlign4 : EncodeDecodes.Statement .padAlign4 := ⟨rfl, rfl⟩
theorem EncodeDecodes.ip4HdrParse : EncodeDecodes.Statement .ip4HdrParse := ⟨rfl, rfl⟩
theorem EncodeDecodes.ip4DgramParse : EncodeDecodes.Statement .ip4DgramParse := ⟨rfl, rfl⟩
theorem EncodeDecodes.ip4CsumPatch : EncodeDecodes.Statement .ip4CsumPatch := ⟨rfl, rfl⟩
theorem EncodeDecodes.icmpParse : EncodeDecodes.Statement .icmpParse := ⟨rfl, rfl⟩
theorem EncodeDecodes.icmpCsumPatch : EncodeDecodes.Statement .icmpCsumPatch := ⟨rfl, rfl⟩
theorem EncodeDecodes.sctpHdrParse : EncodeDecodes.Statement .sctpHdrParse := ⟨rfl, rfl⟩
theorem EncodeDecodes.sctpPktCheck : EncodeDecodes.Statement .sctpPktCheck := ⟨rfl, rfl⟩
theorem EncodeDecodes.sctpPktWalk : EncodeDecodes.Statement .sctpPktWalk := ⟨rfl, rfl⟩
theorem EncodeDecodes.sctpCsumPatch : EncodeDecodes.Statement .sctpCsumPatch := ⟨rfl, rfl⟩
theorem EncodeDecodes.sctpChunkNext : EncodeDecodes.Statement .sctpChunkNext := ⟨rfl, rfl⟩
theorem EncodeDecodes.sctpChunkFrame : EncodeDecodes.Statement .sctpChunkFrame := ⟨rfl, rfl⟩
theorem EncodeDecodes.srst : EncodeDecodes.Statement .srst := ⟨rfl, rfl⟩
theorem EncodeDecodes.icmpTypeEchoReply : EncodeDecodes.Statement .icmpTypeEchoReply := ⟨rfl, rfl⟩
theorem EncodeDecodes.icmpTypeDestUnreachable : EncodeDecodes.Statement .icmpTypeDestUnreachable := ⟨rfl, rfl⟩
theorem EncodeDecodes.icmpTypeSourceQuench : EncodeDecodes.Statement .icmpTypeSourceQuench := ⟨rfl, rfl⟩
theorem EncodeDecodes.icmpTypeRedirect : EncodeDecodes.Statement .icmpTypeRedirect := ⟨rfl, rfl⟩
theorem EncodeDecodes.icmpTypeEcho : EncodeDecodes.Statement .icmpTypeEcho := ⟨rfl, rfl⟩
theorem EncodeDecodes.icmpTypeTimeExceeded : EncodeDecodes.Statement .icmpTypeTimeExceeded := ⟨rfl, rfl⟩
theorem EncodeDecodes.icmpTypeParameterProblem : EncodeDecodes.Statement .icmpTypeParameterProblem := ⟨rfl, rfl⟩
theorem EncodeDecodes.icmpTypeTimestamp : EncodeDecodes.Statement .icmpTypeTimestamp := ⟨rfl, rfl⟩
theorem EncodeDecodes.icmpTypeTimestampReply : EncodeDecodes.Statement .icmpTypeTimestampReply := ⟨rfl, rfl⟩
theorem EncodeDecodes.icmpTypeInfoRequest : EncodeDecodes.Statement .icmpTypeInfoRequest := ⟨rfl, rfl⟩
theorem EncodeDecodes.icmpTypeInfoReply : EncodeDecodes.Statement .icmpTypeInfoReply := ⟨rfl, rfl⟩
theorem EncodeDecodes.chunkTypeData : EncodeDecodes.Statement .chunkTypeData := ⟨rfl, rfl⟩
theorem EncodeDecodes.chunkTypeInit : EncodeDecodes.Statement .chunkTypeInit := ⟨rfl, rfl⟩
theorem EncodeDecodes.chunkTypeInitAck : EncodeDecodes.Statement .chunkTypeInitAck := ⟨rfl, rfl⟩
theorem EncodeDecodes.chunkTypeSack : EncodeDecodes.Statement .chunkTypeSack := ⟨rfl, rfl⟩
theorem EncodeDecodes.chunkTypeHeartbeat : EncodeDecodes.Statement .chunkTypeHeartbeat := ⟨rfl, rfl⟩
theorem EncodeDecodes.chunkTypeHeartbeatAck : EncodeDecodes.Statement .chunkTypeHeartbeatAck := ⟨rfl, rfl⟩
theorem EncodeDecodes.chunkTypeAbort : EncodeDecodes.Statement .chunkTypeAbort := ⟨rfl, rfl⟩
theorem EncodeDecodes.chunkTypeShutdown : EncodeDecodes.Statement .chunkTypeShutdown := ⟨rfl, rfl⟩
theorem EncodeDecodes.chunkTypeShutdownAck : EncodeDecodes.Statement .chunkTypeShutdownAck := ⟨rfl, rfl⟩
theorem EncodeDecodes.chunkTypeError : EncodeDecodes.Statement .chunkTypeError := ⟨rfl, rfl⟩
theorem EncodeDecodes.chunkTypeCookieEcho : EncodeDecodes.Statement .chunkTypeCookieEcho := ⟨rfl, rfl⟩
theorem EncodeDecodes.chunkTypeCookieAck : EncodeDecodes.Statement .chunkTypeCookieAck := ⟨rfl, rfl⟩
theorem EncodeDecodes.chunkTypeReserved1 : EncodeDecodes.Statement .chunkTypeReserved1 := ⟨rfl, rfl⟩
theorem EncodeDecodes.chunkTypeReserved2 : EncodeDecodes.Statement .chunkTypeReserved2 := ⟨rfl, rfl⟩
theorem EncodeDecodes.chunkTypeShutdownComplete : EncodeDecodes.Statement .chunkTypeShutdownComplete := ⟨rfl, rfl⟩

end Sys2Proof.Laws
end

