-- ==== Sys2Proof/Laws/Reference.lean ====
section
/-! SUPPORT. The model's functions over bit vectors agree with the plain-number helpers the statements are written in. -/

namespace Sys2Proof.Spec

open Sys2Proof.Machine

/-! ### Fields -/

theorem memRead2_be2 (rd : Nat → Byte) (a : Nat) : (memRead2 rd a).toNat = be2 rd a := by
  rw [memRead2_toNat]; unfold be2; omega

theorem memRead4_be4 (rd : Nat → Byte) (a : Nat) : (memRead4 rd a).toNat = be4 rd a := by
  rw [memRead4_toNat]; unfold be4 be2; rw [Nat.add_assoc a 2 1]; omega

theorem be2_lt (rd : Nat → Byte) (a : Nat) : be2 rd a < 65536 := by
  rw [← memRead2_be2]; exact (memRead2 rd a).isLt

theorem be4_lt (rd : Nat → Byte) (a : Nat) : be4 rd a < 4294967296 := by
  rw [← memRead4_be4]; exact (memRead4 rd a).isLt

theorem toWord_reg (n : Nat) : toWord n = reg n := rfl

theorem byteWord_reg (b : Byte) : byteWord b = reg b.toNat := setWidth_eq_ofNat b

theorem halfWord_reg (rd : Nat → Byte) (a : Nat) : halfWord (memRead2 rd a) = reg (be2 rd a) := by
  rw [← memRead2_be2]; exact setWidth_eq_ofNat _

theorem memRead4_reg (rd : Nat → Byte) (a : Nat) : memRead4 rd a = reg (be4 rd a) := by
  rw [← memRead4_be4]; exact word_eq_ofNat _

theorem roundUp_eq (n : Nat) : roundUp n = align4 n := by unfold roundUp align4; omega

theorem roundUp_sub (n : Nat) : roundUp n - n = pad4 n := by rw [roundUp_eq]; rfl

/-! ### One's-complement sums -/

theorem twoFolds_eq (S : Nat) : twoFolds S = fold S := rfl

theorem ocSumWords_eq (rd : Nat → Byte) (b : Nat) :
    ∀ k, ocSumWords rd b k = ((List.range k).map fun i => be2 rd (b + 2 * i)).sum
  | 0 => rfl
  | k + 1 => by
    rw [List.range_succ, List.map_append, List.sum_append, ocSumWords, ocSumWords_eq rd b k, memRead2_be2]; simp

theorem ocSum_eq (rd : Nat → Byte) (b n : Nat) : ocSum rd b n = wordSum rd b n := ocSumWords_eq rd b (n / 2)

/-- Leaving one summand out of a sum over a range. -/
theorem sum_without (f : Nat → Nat) (z : Nat) :
    ∀ k, ((List.range k).map fun i => if 2 * i = z then 0 else f i).sum + (if z % 2 = 0 ∧ z / 2 < k then f (z / 2) else 0)
      = ((List.range k).map f).sum
  | 0 => by simp
  | k + 1 => by
    have ih := sum_without f z k
    simp only [List.range_succ, List.map_append, List.sum_append, List.map_cons, List.map_nil, List.sum_cons, List.sum_nil]
    by_cases h : 2 * k = z
    · subst h
      have h₁ : 2 * k / 2 = k := by omega
      simp [h₁] at ih ⊢
      omega
    · have h₂ : (z % 2 = 0 ∧ z / 2 < k + 1) ↔ (z % 2 = 0 ∧ z / 2 < k) := by omega
      simp only [h, h₂, if_false] at ih ⊢
      omega

/-- Taking the word at an even offset inside the region away from the sum is counting it as zero (40 R147). -/
theorem ocSumZ_eq {rd : Nat → Byte} {b n z : Nat} (hz : z % 2 = 0) (hn : z + 2 ≤ n) :
    ocSumZ rd b n z = wordSumWithout rd b n z := by
  have h := sum_without (fun i => be2 rd (b + 2 * i)) z (n / 2)
  rw [if_pos ⟨hz, by omega⟩] at h
  have h₂ : 2 * (z / 2) = z := by omega
  simp only [h₂] at h
  unfold ocSumZ wordSumWithout
  rw [ocSum_eq, memRead2_be2]
  unfold wordSum
  omega

theorem ocGenZ_eq {rd : Nat → Byte} {b n z : Nat} (hz : z % 2 = 0) (hn : z + 2 ≤ n) :
    ocGenZ rd b n z = checksumWithout rd b n z := by
  unfold ocGenZ checksumWithout; rw [ocSumZ_eq hz hn]; rfl

/-- The sum of a region is the word left out and the rest. -/
theorem wordSum_split {rd : Nat → Byte} {b n z : Nat} (hz : z % 2 = 0) (hn : z + 2 ≤ n) :
    wordSum rd b n = wordSumWithout rd b n z + be2 rd (b + z) := by
  have h := sum_without (fun i => be2 rd (b + 2 * i)) z (n / 2)
  rw [if_pos ⟨hz, by omega⟩] at h
  have h₂ : 2 * (z / 2) = z := by omega
  simp only [h₂] at h
  unfold wordSum wordSumWithout
  omega

/-! ### CRC32c -/

theorem crcShift_toNat (c : Word) :
    (crcShift c).toNat = if c.toNat % 2 = 1 then (c.toNat / 2) ^^^ 0x82F63B78 else c.toNat / 2 := by
  have h : c.getLsbD 0 = decide (c.toNat % 2 = 1) := by
    rw [BitVec.getLsbD, Nat.testBit_zero]
  unfold crcShift
  rw [h]
  by_cases hc : c.toNat % 2 = 1
  · simp [hc, crcPolyReflected, Nat.shiftRight_eq_div_pow]
  · simp [hc, Nat.shiftRight_eq_div_pow]

theorem crcShifts_toNat (g : Nat → Nat) (hg : ∀ c : Word, (crcShift c).toNat = g c.toNat) :
    ∀ (n : Nat) (c : Word) (m : Nat), (crcShifts n c).toNat = (List.range' m n).foldl (fun c _ => g c) c.toNat
  | 0, c, m => rfl
  | n + 1, c, m => by
    rw [crcShifts, crcShifts_toNat g hg n _ (m + 1), hg]
    rw [List.range'_succ, List.foldl_cons]

theorem crcTable_toNat (i : Byte) : (crcTable i).toNat = crcEntry i.toNat := by
  unfold crcTable crcEntry
  rw [crcShifts_toNat (fun c => if c % 2 = 1 then (c / 2) ^^^ 0x82F63B78 else c / 2) crcShift_toNat 8 _ 0, List.range_eq_range',
    BitVec.toNat_setWidth, Nat.mod_eq_of_lt (by have := i.isLt; omega)]

theorem crcUpdate_toNat (crc : Word) (b : Byte) : (crcUpdate crc b).toNat = crcStep crc.toNat b.toNat := by
  unfold crcUpdate crcStep
  rw [BitVec.toNat_xor, crcTable_toNat]
  have h₁ : (crc.extractLsb' 0 8 ^^^ b).toNat = (crc.toNat ^^^ b.toNat) % 256 := by
    rw [BitVec.toNat_xor, BitVec.extractLsb'_toNat]
    have : b.toNat % 2 ^ 8 = b.toNat := Nat.mod_eq_of_lt b.isLt
    rw [show (256 : Nat) = 2 ^ 8 from rfl, Nat.xor_mod_two_pow, this, Nat.shiftRight_zero]
  rw [h₁, BitVec.toNat_ushiftRight, Nat.shiftRight_eq_div_pow]

theorem crcByte_toNat (rd : Nat → Byte) (b k i : Nat) :
    (crcByte rd b k i).toNat = if k ≤ i ∧ i < k + 4 then 0 else (rd (b + i)).toNat := by
  unfold crcByte; split <;> rfl

theorem crcRegister_toNat (rd : Nat → Byte) (b k : Nat) :
    ∀ n, (crcRegister rd b k n).toNat = (List.range n).foldl
      (fun crc i => crcStep crc (if k ≤ i ∧ i < k + 4 then 0 else (rd (b + i)).toNat)) 0xFFFFFFFF
  | 0 => rfl
  | n + 1 => by
    rw [List.range_succ, List.foldl_append, crcRegister, crcUpdate_toNat, crcRegister_toNat rd b k n, crcByte_toNat]; rfl

theorem crc32c_toNat (rd : Nat → Byte) (b n k : Nat) : (crc32c rd b n k).toNat = crcOf rd b n k := by
  unfold crc32c crcOf
  rw [BitVec.toNat_not, crcRegister_toNat]

theorem crc32c_reg (rd : Nat → Byte) (b n k : Nat) : crc32c rd b n k = reg (crcOf rd b n k) := by
  rw [← crc32c_toNat]; exact word_eq_ofNat _

theorem crcOf_lt (rd : Nat → Byte) (b n k : Nat) : crcOf rd b n k < 4294967296 := by
  rw [← crc32c_toNat]; exact (crc32c rd b n k).isLt

/-! ### Runs -/

/-- One step of a run. -/
theorem runSteps_succ {k : Nat} {s t : State} (h : step s = .next t) : runSteps (k + 1) s = runSteps k t := by
  rw [runSteps, h]

theorem core_run_next {M : Host.Core} {k : Nat} {s t : M.State} (h : M.step s = .next t) :
    M.run (k + 1) s = M.run k t := by
  rw [Host.Core.run, h]

theorem core_run_fault {M : Host.Core} {k : Nat} {s : M.State} {r : M.Fault} (h : M.step s = .fault r) :
    M.run (k + 1) s = .fault r := by
  rw [Host.Core.run, h]

theorem core_run_refused {M : Host.Core} {k : Nat} {s : M.State} {r : M.Refusal} (h : M.step s = .refused r) :
    M.run (k + 1) s = .refused r := by
  rw [Host.Core.run, h]

/-- The statements' runs are the host's. -/
theorem runSteps_eq_core : ∀ (k : Nat) (s : State), runSteps k s = Host.Core.run Sys2Proof.core k s
  | 0, _ => rfl
  | k + 1, s => by
    cases h : step s with
    | next t => exact (runSteps_succ h).trans ((runSteps_eq_core k t).trans (core_run_next (M := Sys2Proof.core) h).symm)
    | fault r => exact (show runSteps (k + 1) s = .fault r by rw [runSteps, h]).trans (core_run_fault (M := Sys2Proof.core) h).symm
    | refused r =>
      exact (show runSteps (k + 1) s = .refused r by rw [runSteps, h]).trans (core_run_refused (M := Sys2Proof.core) h).symm

end Sys2Proof.Spec
end

