-- ==== Sys2Proof/Laws/Turns.lean ====
section
/-! SUPPORT. What a turn can do: the host's accesses, the block's turn, the step. -/

namespace Sys2Proof.Machine

@[simp] theorem step_eq (s : State) : step s = takeTurn s := rfl

theorem blockTurn_busy {s : State} (h : s.status.busy = true) : blockTurn s = completePending s := by
  simp [blockTurn, h]

theorem blockTurn_idle {s : State} (h : s.status.busy = false) : blockTurn s = .next s := by
  simp [blockTurn, h]

/-- Everything the completion of `PENDING` can do. -/
theorem completePending_cases (s : State) :
    (∃ i, decodeCommand s.pending = .ok i ∧ completePending s = exec i s)
    ∨ (∃ r, decodeCommand s.pending = .error r ∧ completePending s = .next (raiseError s .illegalCommand)) := by
  unfold completePending fetchCommand
  cases h : decodeCommand s.pending with
  | ok i => exact .inl ⟨i, rfl, rfl⟩
  | error r => exact .inr ⟨r, rfl, rfl⟩

/-- Everything a host register write can do (20 R71, R72, 60 R339). -/
theorem writeReg_cases (s : State) (o : Nat) (v : Word) :
    writeReg s o v = s
    ∨ (s.status.busy = true ∧ writeReg s o v = dropWrite s)
    ∨ (s.status.busy = false ∧ (writeReg s o v = accept s v ∨ ∃ ops, writeReg s o v = { s with ops := ops })) := by
  unfold writeReg
  by_cases hw : writableReg o = false
  · exact .inl (by rw [if_pos hw])
  · rw [if_neg hw]
    cases hb : s.status.busy with
    | true => exact .inr (.inl ⟨rfl, by simp⟩)
    | false =>
      refine .inr (.inr ⟨rfl, ?_⟩)
      rw [if_neg (by simp)]
      by_cases h₀ : o = 0x00
      · exact .inl (by rw [if_pos h₀])
      · rw [if_neg h₀]
        right
        by_cases h₁ : o = 0x10
        · exact ⟨_, by rw [if_pos h₁]⟩
        · rw [if_neg h₁]
          by_cases h₂ : o = 0x14
          · exact ⟨_, by rw [if_pos h₂]⟩
          · rw [if_neg h₂]
            by_cases h₃ : o = 0x18
            · exact ⟨_, by rw [if_pos h₃]⟩
            · exact ⟨_, by rw [if_neg h₃]⟩

/-- Everything a host byte write can do (20 R72, R73, 10 R38). -/
theorem writeWindow_cases (s : State) (j : Nat) (b : Byte) :
    writeWindow s j b = s
    ∨ (s.status.busy = true ∧ j < s.params.bufBytes ∧ writeWindow s j b = dropWrite s)
    ∨ (s.status.busy = false ∧ j < s.params.bufBytes
        ∧ writeWindow s j b = { s with buf := Memory.write s.buf j b }) := by
  unfold writeWindow
  by_cases hj : s.params.bufBytes ≤ j
  · simp [hj]
  · cases hb : s.status.busy with
    | true => simp [hj, Nat.lt_of_not_le hj]
    | false => simp [hj, Nat.lt_of_not_le hj]

/-- Everything a host access can do. -/
theorem hostAccess_cases (a : Access) (s : State) :
    (a.onPort = false ∧ hostAccess a s = .fault .noSuchAccess)
    ∨ (a.onPort = true ∧
        ((∃ v, hostAccess a s = .next (receive s v))
        ∨ (∃ o v, hostAccess a s = .next (writeReg s o v))
        ∨ (∃ j b, hostAccess a s = .next (writeWindow s j b)))) := by
  cases h : a.onPort with
  | false => exact .inl ⟨rfl, by simp [hostAccess, h]⟩
  | true =>
    refine .inr ⟨rfl, ?_⟩
    cases a with
    | read32 o => exact .inl ⟨_, by simp [hostAccess, h]; rfl⟩
    | write32 o v => exact .inr (.inl ⟨o, v, by simp [hostAccess, h]⟩)
    | read8 o => exact .inl ⟨_, by simp [hostAccess, h]; rfl⟩
    | write8 o b => exact .inr (.inr ⟨o - 0x10000, b, by simp [hostAccess, h]⟩)

/-- A host access while busy changes nothing but `OVR` and what the host has read (20 R69, R72). -/
theorem hostAccess_busy {a : Access} {s : State} (ha : a.onPort = true) (hb : s.status.busy = true) :
    ∃ v r, hostAccess a s = .next { s with status := { s.status with ovr := v }, received := r } := by
  rcases hostAccess_cases a s with ⟨h, _⟩ | ⟨_, ⟨v, h⟩ | ⟨o, v, h⟩ | ⟨j, b, h⟩⟩
  · rw [ha] at h; cases h
  · exact ⟨s.status.ovr, v :: s.received, h⟩
  · rcases writeReg_cases s o v with hw | ⟨_, hw⟩ | ⟨hi, _⟩
    · exact ⟨s.status.ovr, s.received, by rw [h, hw]⟩
    · exact ⟨true, s.received, by rw [h, hw]; rfl⟩
    · rw [hb] at hi; cases hi
  · rcases writeWindow_cases s j b with hw | ⟨_, _, hw⟩ | ⟨hi, _⟩
    · exact ⟨s.status.ovr, s.received, by rw [h, hw]⟩
    · exact ⟨true, s.received, by rw [h, hw]; rfl⟩
    · rw [hb] at hi; cases hi

/-- Everything a step can do, by the head of the agenda. -/
theorem step_cases (s : State) :
    (s.agenda = [] ∧ step s = blockTurn s)
    ∨ (∃ rest, s.agenda = .block :: rest ∧ step s = blockTurn { s with agenda := rest })
    ∨ (∃ rest, s.agenda = .wait :: rest ∧ s.status.busy = true ∧ step s = blockTurn s)
    ∨ (∃ rest, s.agenda = .wait :: rest ∧ s.status.busy = false
        ∧ step s = hostAccess (.read32 0x04) { s with agenda := rest })
    ∨ (∃ a rest, s.agenda = .access a :: rest ∧ step s = hostAccess a { s with agenda := rest })
    ∨ (∃ rest, s.agenda = .hardwareReset :: rest ∧ step s = .next (hardwareReset { s with agenda := rest })) := by
  rw [step_eq]
  unfold takeTurn
  cases h : s.agenda with
  | nil => exact .inl ⟨rfl, rfl⟩
  | cons x rest =>
    cases x with
    | block => exact .inr (.inl ⟨rest, rfl, rfl⟩)
    | wait =>
      cases hb : s.status.busy with
      | true => exact .inr (.inr (.inl ⟨rest, rfl, rfl, by simp⟩))
      | false => exact .inr (.inr (.inr (.inl ⟨rest, rfl, rfl, by simp⟩)))
    | access a => exact .inr (.inr (.inr (.inr (.inl ⟨a, rest, rfl, rfl⟩))))
    | hardwareReset => exact .inr (.inr (.inr (.inr (.inr ⟨rest, rfl, rfl⟩))))

end Sys2Proof.Machine
end

