-- ==== Sys2Proof/Tests/Slice0.lean ====
section
/-! SUPPORT. Tests: ill-formed terms the checks refuse, every encoding written out, one-step vectors of
spec/95_test_vectors.md (the vector's name stands in the test's comment), and for every statement with hypotheses a state
that meets them. -/

namespace Sys2Proof.Tests

-- One test after another: a kernel evaluation waits for everything before it, and each waiting test would hold a thread.
set_option Elab.async false

open Sys2Proof.Machine Sys2Proof.Spec

/-! ### Helpers -/

/-- These bytes from `off` on. -/
def bytesAt (off : Nat) : List Nat → Memory
  | [] => []
  | b :: bs => (off, BitVec.ofNat 8 b) :: bytesAt (off + 1) bs

/-- The state after reset with these operands and buffer bytes. -/
def machine (a0 a1 a2 a3 : Nat) (buf : Memory) : State :=
  { State.reset with ops := { a0 := reg a0, a1 := reg a1, a2 := reg a2, a3 := reg a3 }, buf := buf }

/-- A region of these bytes at offset 0, all of it named by `A0`, `A1`. -/
def region (bytes : List Nat) : State := machine 0 bytes.length 0 0 (bytesAt 0 bytes)

/-- `STATUS` and the results after `CMDW v` and the completion. -/
def result (v : Word) (s : State) : Option (Nat × List Nat) :=
  match completePending (accept s v) with
  | .next t => some (t.status.word.toNat, t.res.toList.map (·.toNat))
  | .fault _ | .refused _ => none

/-- `OK` and the results of a row run directly. -/
def rowResult (i : Instr) (s : State) : Option (Bool × List Nat) :=
  match exec i s with
  | .next t => some (t.status.ok, t.res.toList.map (·.toNat))
  | .fault _ | .refused _ => none

/-- `KIND`, `CODE` and whether the results are 0, of a row run directly. -/
def rowError (i : Instr) (s : State) : Option (Nat × Nat × Bool) :=
  match exec i s with
  | .next t => some (t.status.kind.toNat, t.status.code.toNat, decide (t.res = {}))
  | .fault _ | .refused _ => none

/-- The listed buffer bytes after a command. -/
def bufferAfter (v : Word) (s : State) : Option (List (Nat × Nat)) :=
  match completePending (accept s v) with
  | .next t => some (t.buf.map fun c => (c.1, c.2.toNat))
  | .fault _ | .refused _ => none

/-- The row ran to its end without error. -/
def succeeds (i : Instr) (s : State) : Bool :=
  match exec i s with
  | .next t => t.status.ok
  | .fault _ | .refused _ => false

theorem exists_of_succeeds {i : Instr} {s : State} (h : succeeds i s = true) :
    ∃ t, exec i s = .next t ∧ t.status.ok = true := by
  unfold succeeds at h
  split at h
  · rename_i t ht; exact ⟨t, ht, h⟩
  · cases h
  · cases h

/-- `GOOD` of 95: the patched header of scenario S1. -/
def goodHeader : List Nat :=
  [0x45, 0xAC, 0x02, 0x40, 0x00, 0x01, 0x20, 0x0C, 0x05, 0x11, 0x53, 0x4A, 0x7F, 0x00, 0x00, 0x01, 0xC0, 0xA8, 0x00, 0x01]

/-- V-IP-12 of 95: a header of 20 bytes whose datagram is the header alone. -/
def bareHeader : List Nat :=
  [0x45, 0xAC, 0x00, 0x14, 0x00, 0x01, 0x20, 0x0C, 0x05, 0x11, 0x55, 0x76, 0x7F, 0x00, 0x00, 0x01, 0xC0, 0xA8, 0x00, 0x01]

/-- The message of scenario S4 of 95, after the patch. -/
def echoMessage : List Nat :=
  [0x08, 0x00, 0x54, 0x35, 0x12, 0x34, 0x00, 0x01, 0x61, 0x62, 0x63, 0x64, 0x65, 0x66, 0x67, 0x68]

/-- V-ICMP-8, 12, 13, 14 of 95: an error report with type, code, checksum, first four region bytes. -/
def errorReport (head : List Nat) : List Nat :=
  head ++ [0, 0, 0, 0] ++ goodHeader ++ [0x4E, 0x20, 0x75, 0x30, 0x00, 0x10, 0x00, 0x00]

/-- V-ICMP-3 of 95 after the patch, with the tag and checksum given. -/
def timestampMessage (tag hi lo : Nat) : List Nat :=
  [tag, 0, hi, lo, 0x00, 0x07, 0x00, 0x09, 0x00, 0x00, 0x03, 0xE8, 0x00, 0x00, 0x07, 0xD0, 0x00, 0x00, 0x0B, 0xB8]

/-- The packet of scenario S3 of 95. -/
def packet : List Nat :=
  [0x4E, 0x20, 0x75, 0x30, 0x00, 0x00, 0x00, 0x7B, 0xAF, 0x59, 0xFD, 0xFB, 0x0A, 0x00, 0x00, 0x08, 0x01, 0x02, 0x03, 0x04,
   0x00, 0x03, 0x00, 0x1C, 0x00, 0x00, 0x00, 0x02, 0x30, 0x39, 0x00, 0x05, 0x00, 0x00, 0x00, 0x03]
  ++ [0x00, 0x01, 0x02, 0x03, 0x04, 0x05, 0x06, 0x07, 0x08, 0x09, 0x0A, 0x0B]

/-- V-SCTP-4 of 95 after the patch: a common header with no chunk. -/
def bareHeaderPacket : List Nat := [0x4E, 0x20, 0x75, 0x30, 0x00, 0x00, 0x00, 0x7B, 0x2A, 0x35, 0x86, 0x59]

/-- Sixteen results of which only the listed prefix is not 0. -/
def padded (l : List Nat) : List Nat := l ++ List.replicate (16 - l.length) 0

/-! ### Well-formedness: each check refuses an ill-formed term -/

theorem test_line_refuses_a_row_that_is_no_command :
    (Line.cmd .icmpTypeEcho).wellFormed = false ∧ (Line.run .chunkTypeData [0, 0]).wellFormed = false
      ∧ (Line.cmd .srst).wellFormed = true := by decide

theorem test_line_refuses_one_operand_or_five :
    (Line.run .nop [0]).wellFormed = false ∧ (Line.run .nop [0, 0, 0, 0, 0]).wellFormed = false
      ∧ (Line.run .nop []).wellFormed = true ∧ (Line.run .nop [0, 0]).wellFormed = true := by decide

theorem test_access_refuses_misaligned_and_misplaced :
    (Access.read32 0x02).onPort = false ∧ (Access.write32 0x41 0).onPort = false ∧ (Access.read32 0x10000).onPort = false
      ∧ (Access.read8 0xFFFF).onPort = false ∧ (Access.write8 0x40 0).onPort = false
      ∧ (Access.read32 0xFFFC).onPort = true ∧ (Access.write8 0x10000 0).onPort = true := by decide

theorem test_params_refuse_buffer_sizes :
    Params.wellFormed { defaultParams with bufBytes := 66 } = false ∧ Params.wellFormed { defaultParams with bufBytes := 60 } = false
      ∧ Params.wellFormed { defaultParams with bufBytes := 65540 } = false
      ∧ Params.wellFormed { defaultParams with bufBytes := 64 } = true := by decide

theorem test_params_refuse_region_and_repeated_tags :
    Params.wellFormed { defaultParams with icmpErrRegion := 6 } = false
      ∧ Params.wellFormed { defaultParams with icmpTypes := ⟨8, .timestamp, true⟩ :: defaultIcmpTypes } = false
      ∧ Params.wellFormed { defaultParams with chunkTypes := ⟨14, .data, .atLeast 4⟩ :: defaultChunkTypes } = false
      ∧ Params.wellFormed { defaultParams with icmpErrRegion := 4 } = true := by decide

/-! ### Decoding: every row's word or tag, written out from 30 R92, R112, R118 -/

theorem test_decode_system_and_checksum_words :
    [0x00000000, 0x0000007F, 0x00000001, 0x00000002, 0x00000003, 0x00000004, 0x00000008].map (decodeTableWord 32)
      = [some .nop, some .srst, some .oc16Gen, some .oc16Val, some .crc32cGen, some .crc32cVal, some .padAlign4] := by
  decide

theorem test_decode_parser_words :
    [0x00000010, 0x00000011, 0x00000012, 0x00000020, 0x00000021].map (decodeTableWord 32)
      = [some .ip4HdrParse, some .ip4DgramParse, some .ip4CsumPatch, some .icmpParse, some .icmpCsumPatch] := by
  decide

theorem test_decode_sctp_words :
    [0x00000030, 0x00000031, 0x00000032, 0x00000033, 0x00000040, 0x00000041].map (decodeTableWord 32)
      = [some .sctpHdrParse, some .sctpPktCheck, some .sctpPktWalk, some .sctpCsumPatch, some .sctpChunkNext,
         some .sctpChunkFrame] := by
  decide

theorem test_decode_icmp_tags :
    [0, 3, 4, 5, 8, 11, 12, 13, 14, 15, 16].map (fun t : Byte => (decode (.icmpType8 t)).toOption)
      = [some .icmpTypeEchoReply, some .icmpTypeDestUnreachable, some .icmpTypeSourceQuench, some .icmpTypeRedirect,
         some .icmpTypeEcho, some .icmpTypeTimeExceeded, some .icmpTypeParameterProblem, some .icmpTypeTimestamp,
         some .icmpTypeTimestampReply, some .icmpTypeInfoRequest, some .icmpTypeInfoReply] := by
  decide

theorem test_decode_chunk_types :
    [0, 1, 2, 3, 4, 5, 6, 7, 8, 9, 10, 11, 12, 13, 14].map (fun t : Byte => (decode (.sctpChunkType8 t)).toOption)
      = [some .chunkTypeData, some .chunkTypeInit, some .chunkTypeInitAck, some .chunkTypeSack, some .chunkTypeHeartbeat,
         some .chunkTypeHeartbeatAck, some .chunkTypeAbort, some .chunkTypeShutdown, some .chunkTypeShutdownAck,
         some .chunkTypeError, some .chunkTypeCookieEcho, some .chunkTypeCookieAck, some .chunkTypeReserved1,
         some .chunkTypeReserved2, some .chunkTypeShutdownComplete] := by
  decide

/-- The gaps of 30 R93, and a legal low byte under a set upper bit (46 R324). -/
theorem test_decode_rejects_by_name :
    decodeCommand 0x00000005 = .error .unknownOpcode ∧ decodeCommand 0x0000007E = .error .unknownOpcode
      ∧ decodeCommand 0x000000FF = .error .unknownOpcode ∧ decodeCommand 0x00000101 = .error .upperBits
      ∧ decodeCommand 0x80000000 = .error .upperBits ∧ decodeIcmpType 1 = .error .unknownIcmpType
      ∧ decodeIcmpType 17 = .error .unknownIcmpType ∧ decodeChunkType 15 = .error .unknownChunkType := by
  refine ⟨rfl, rfl, rfl, rfl, rfl, rfl, rfl, rfl⟩

/-- An 8-bit table word of both tables is read as the first row (log 2). -/
theorem test_table_word_of_eight_bits :
    decodeTableWord 8 11 = some .icmpTypeTimeExceeded ∧ decodeTableWord 8 1 = some .chunkTypeInit
      ∧ decodeTableWord 8 17 = none := by decide

/-! ### One-step vectors -/

/-- 46 R321, R322, R324 examples. -/
theorem test_system_commands :
    result 0x00 (region []) = some (0x00000006, padded []) ∧ result 0x7F (region [1]) = some (0, padded [])
      ∧ result 0x05 (region []) = some (0x00050272, padded []) ∧ result 0x101 (region []) = some (0x00010272, padded []) := by
  decide +kernel

/-- V-OC-4, V-OC-1, V-OC-8, V-OC-9. -/
theorem test_oc16_gen :
    result 0x01 (region [0xFF, 0xFF, 0xFF, 0xFF, 0x00, 0x01]) = some (0x00010006, padded [0xFFFE, 1])
      ∧ result 0x01 (region []) = some (0x00010006, padded [0xFFFF])
      ∧ result 0x01 (machine 0 3 0 0 []) = some (0x00010372, padded [])
      ∧ result 0x01 (machine 0 65537 0 0 []) = some (0x00010172, padded []) := by
  decide +kernel

/-- V-OC-6, V-OC-2, V-OC-3, V-OC-7. -/
theorem test_oc16_val :
    result 0x02 (region [0x00, 0x01, 0xF2, 0x03, 0xF4, 0xF5, 0xF6, 0xF7, 0x22, 0x0D]) = some (0x00020006, padded [1, 0xFFFF])
      ∧ result 0x02 (region [0, 0]) = some (0x00020006, padded [])
      ∧ result 0x02 (region [0xFF, 0xFF]) = some (0x00020006, padded [1, 0xFFFF]) := by
  decide +kernel

/-- V-CRC-1, V-CRC-4, V-CRC-7. -/
theorem test_crc32c_gen :
    result 0x03 (region [0xDE, 0xAD, 0xBE, 0xEF]) = some (0x00030006, padded [0x48674BC7])
      ∧ result 0x03 { region packet with ops := { a1 := 48, a2 := 8 } } = some (0x00030006, padded [0xAF59FDFB])
      ∧ result 0x03 (machine 0 8 0xFFFFFFFE 0 []) = some (0x00030472, padded []) := by
  decide +kernel

/-- V-CRC-5, V-CRC-6. -/
theorem test_crc32c_val :
    result 0x04 (machine 0 13 9 0 (bytesAt 0 [0x31, 0x32, 0x33, 0x34, 0x35, 0x36, 0x37, 0x38, 0x39, 0xAA, 0xBB, 0xCC, 0xDD]))
        = some (0x00040006, padded [0, 0x55A059D9, 0xAABBCCDD])
      ∧ result 0x04 (machine 0 13 9 0 (bytesAt 0 [0x31, 0x32, 0x33, 0x34, 0x35, 0x36, 0x37, 0x38, 0x39, 0x55, 0xA0, 0x59, 0xD9]))
        = some (0x00040006, padded [1, 0x55A059D9, 0x55A059D9]) := by
  decide +kernel

/-- V-PAD-1, V-PAD-2. -/
theorem test_pad_align4 :
    result 0x08 (machine 0x12345678 9 0 0 []) = some (0x00080006, padded [12, 3])
      ∧ result 0x08 (machine 0 0xFFFFFFFC 0 0 []) = some (0x00080006, padded [0xFFFFFFFC])
      ∧ result 0x08 (machine 0 0xFFFFFFFD 0 0 []) = some (0x00080172, padded []) := by
  decide +kernel

/-- S1 step b (42 R186 example). -/
theorem test_ip4_hdr_parse :
    result 0x10 (region goodHeader)
      = some (0x00100006, [4, 5, 0xAC, 576, 1, 1, 12, 5, 17, 0x534A, 0x7F000001, 0xC0A80001, 20, 0, 20, 556]) := by
  decide +kernel

/-- V-IP-5, V-IP-6, V-IP-7, V-IP-8, V-IP-11, and the refused field of V-OC-7. -/
theorem test_ip4_hdr_parse_errors :
    result 0x10 (machine 0 19 0 0 (bytesAt 0 goodHeader)) = some (0x00101122, padded [])
      ∧ result 0x10 (region (0x65 :: goodHeader.drop 1)) = some (0x00101012, padded [])
      ∧ result 0x10 (region (0x44 :: goodHeader.drop 1)) = some (0x00101222, padded [])
      ∧ result 0x10 (region (goodHeader.take 11 ++ 0x4B :: goodHeader.drop 12)) = some (0x00101432, padded [])
      ∧ result 0x10 (region (0x45 :: 0xAC :: 0 :: 0x13 :: (bareHeader.drop 4).take 6 ++ 0x55 :: 0x77 :: bareHeader.drop 12))
        = some (0x00101522, padded [])
      ∧ result 0x10 (region ([0x45, 0, 0, 0x14, 0xBA, 0xEB, 0, 0, 0, 0, 0xFF, 0xFF] ++ List.replicate 8 0))
        = some (0x00101432, padded []) := by
  decide +kernel

/-- V-IP-12, and 42 R188's example. -/
theorem test_ip4_dgram_parse :
    (result 0x11 (region bareHeader)).map (fun r => (r.1, r.2.getD 9 0, r.2.getD 15 9)) = some (0x00110006, 0x5576, 0)
      ∧ result 0x11 (region goodHeader) = some (0x00111622, padded []) := by
  decide +kernel

/-- V-IP-2. -/
theorem test_ip4_csum_patch :
    let s := machine 200 28 0 0 (bytesAt 200
      [0x46, 0, 0, 0x1C, 0x12, 0x34, 0x40, 0, 0x40, 0x84, 0, 0, 0x0A, 0, 0, 1, 0x0A, 0, 0, 2, 1, 1, 1, 0, 0xDE, 0xAD, 0xBE, 0xEF])
    result 0x12 s = some (0x00120006, padded [0x1127, 0x18])
      ∧ (bufferAfter 0x12 s).map (fun m => (m.drop 9).take 4) = some [(209, 0x84), (210, 0x11), (211, 0x27), (212, 0x0A)] := by
  decide +kernel

/-- S4 (43 R218 example), V-ICMP-11, V-ICMP-16, V-ICMP-18. -/
theorem test_icmp_parse :
    result 0x20 (machine 100 16 0 0 (bytesAt 100 echoMessage))
        = some (0x00200006, padded [8, 0, 0x5435, 0, 0, 16, 0x12340001, 0, 108, 8])
      ∧ result 0x20 (machine 100 9 0 0 (bytesAt 100 echoMessage)) = some (0x00200372, padded [])
      ∧ result 0x20 (machine 700 5 0 0 (bytesAt 700 [1, 0, 0, 0, 0])) = some (0x00202012, padded [])
      ∧ result 0x20 (region ((errorReport [3, 1, 0x39, 0x9E, 0, 0, 0, 0]).take 12 ++ [0x44] ++ (errorReport [3, 1, 0x39, 0x9E, 0, 0, 0, 0]).drop 13))
        = some (0x00202222, padded []) := by
  decide +kernel

/-- 43 R222 example, V-ICMP-20, V-ICMP-19. -/
theorem test_icmp_csum_patch :
    bufferAfter 0x21 (region [0, 0, 0, 0]) = some [(0, 0), (1, 0), (2, 0xFF), (3, 0xFF)]
      ∧ result 0x21 (region (8 :: 0 :: 1 :: 1 :: echoMessage.drop 4)) = some (0x00210006, padded [0x5435])
      ∧ result 0x21 (machine 100 5 0 0 []) = some (0x00210372, padded []) := by
  decide +kernel

/-- S3 steps a and f. -/
theorem test_sctp_hdr_parse :
    result 0x30 (region packet) = some (0x00300006, padded [0x4E20, 0x7530, 0x7B, 0xAF59FDFB, 12, 36])
      ∧ result 0x30 (machine 0 11 0 0 (bytesAt 0 packet)) = some (0x00303022, padded []) := by
  decide +kernel

/-- S3 steps b, f, g. -/
theorem test_sctp_pkt_check :
    result 0x31 (region packet) = some (0x00310006, padded [0x4E20, 0x7530, 0x7B, 0xAF59FDFB, 12, 36])
      ∧ result 0x31 (region (packet.take 47 ++ [0x0A])) = some (0x00313132, padded [])
      ∧ result 0x31 (region (packet.take 8 ++ [0xFB, 0xFD, 0x59, 0xAF] ++ packet.drop 12)) = some (0x00313132, padded []) := by
  decide +kernel

/-- S3 step c, V-SCTP-4. -/
theorem test_sctp_pkt_walk :
    result 0x32 (region packet) = some (0x00320006, padded [0x4E20, 0x7530, 0x7B, 0xAF59FDFB, 12, 36, 2])
      ∧ result 0x32 (region bareHeaderPacket) = some (0x00320006, padded [0x4E20, 0x7530, 0x7B, 0x2A358659, 12]) := by
  decide +kernel

/-- V-SCTP-4: the stored order of the four bytes. -/
theorem test_sctp_csum_patch :
    (bufferAfter 0x33 (region (bareHeaderPacket.take 8 ++ [0, 0, 0, 0]))).map (·.drop 8)
      = some [(8, 0x2A), (9, 0x35), (10, 0x86), (11, 0x59)] := by
  decide +kernel

/-- S3 steps d and e, V-CH-2. -/
theorem test_sctp_chunk_next :
    result 0x40 (machine 12 36 0 0 (bytesAt 0 packet)) = some (0x00400006, padded [10, 0, 8, 10, 16, 4, 8, 0, 20, 28])
      ∧ result 0x40 (machine 20 28 0 0 (bytesAt 0 packet)) = some (0x00400006, padded [0, 3, 28, 0, 24, 24, 28, 0, 48, 0, 1])
      ∧ result 0x40 (machine 12 7 0 0 (bytesAt 0 packet)) = some (0x00404322, padded [])
      ∧ result 0x40 (region [0x0F, 0, 0, 4]) = some (0x00404012, padded []) := by
  decide +kernel

/-- V-FR-1 (45 R290 example), V-FR-4. -/
theorem test_sctp_chunk_frame :
    let s := machine 0 16 0x0A00 5 (bytesAt 0 (List.replicate 16 0xEE))
    result 0x41 s = some (0x00410006, padded [10, 0, 9, 10, 4, 5, 12, 3, 12, 4])
      ∧ (bufferAfter 0x41 s).map (·.map (·.2))
        = some [0x0A, 0, 0, 9, 0xEE, 0xEE, 0xEE, 0xEE, 0xEE, 0, 0, 0, 0xEE, 0xEE, 0xEE, 0xEE]
      ∧ result 0x41 (machine 0 16 0x0700 5 []) = some (0x00414222, padded [])
      ∧ result 0x41 (machine 0 16 0x10A00 5 []) = some (0x00410172, padded []) := by
  decide +kernel

/-- S4, V-ICMP-2. -/
theorem test_echo_rows :
    rowResult .icmpTypeEcho (region echoMessage) = some (true, padded [8, 0, 0x5435, 0, 0, 16, 0x12340001, 0, 8, 8])
      ∧ rowResult .icmpTypeEchoReply (region [0, 0, 0xED, 0xCA, 0x12, 0x34, 0, 1])
        = some (true, padded [0, 0, 0xEDCA, 0, 1, 8, 0x12340001, 0, 8]) := by
  decide +kernel

/-- V-ICMP-8 and V-ICMP-12 with `BASE` 0. -/
theorem test_unreachable_and_redirect_rows :
    rowResult .icmpTypeDestUnreachable (region (errorReport [3, 1, 0x39, 0x9E, 0, 0, 0, 0]))
        = some (true, padded [3, 1, 0x399E, 1, 0, 40, 0, 0, 12, 20, 32, 8])
      ∧ rowResult .icmpTypeRedirect (region (errorReport [5, 1, 0x2D, 0x9D, 0x0A, 0, 0, 1]))
        = some (true, padded [5, 1, 0x2D9D, 3, 0, 40, 0x0A000001, 0, 12, 20, 32, 8]) := by
  decide +kernel

/-- V-ICMP-14 and V-ICMP-13 with `BASE` 0. -/
theorem test_quench_exceeded_and_problem_rows :
    rowResult .icmpTypeSourceQuench (region (errorReport [4, 0, 0x38, 0x9F, 0, 0, 0, 0]))
        = some (true, padded [4, 0, 0x389F, 2, 0, 40, 0, 0, 12, 20, 32, 8])
      ∧ rowResult .icmpTypeTimeExceeded (region (errorReport [11, 0, 0x31, 0x9F, 0, 0, 0, 0]))
        = some (true, padded [11, 0, 0x319F, 4, 0, 40, 0, 0, 12, 20, 32, 8])
      ∧ rowResult .icmpTypeParameterProblem (region (errorReport [12, 7, 0x27, 0x98, 9, 0, 0, 0]))
        = some (true, padded [12, 7, 0x2798, 5, 0, 40, 0x09000000, 0, 12, 20, 32, 8]) := by
  decide +kernel

/-- V-ICMP-3, V-ICMP-4. -/
theorem test_timestamp_rows :
    rowResult .icmpTypeTimestamp (region (timestampMessage 13 0xDB 0x7F))
        = some (true, padded [13, 0, 0xDB7F, 6, 0, 20, 0x00070009, 0, 8, 12, 0, 0, 0x3E8, 0x7D0, 0xBB8])
      ∧ rowResult .icmpTypeTimestampReply (region (timestampMessage 14 0xDA 0x7F))
        = some (true, padded [14, 0, 0xDA7F, 6, 1, 20, 0x00070009, 0, 8, 12, 0, 0, 0x3E8, 0x7D0, 0xBB8]) := by
  decide +kernel

/-- V-ICMP-7, V-ICMP-6. -/
theorem test_information_rows :
    rowResult .icmpTypeInfoRequest (region [15, 0, 0xF0, 0xEF, 0, 7, 0, 9])
        = some (true, padded [15, 0, 0xF0EF, 7, 0, 8, 0x00070009, 0, 8])
      ∧ rowResult .icmpTypeInfoReply (region [16, 0, 0xEF, 0xEF, 0, 7, 0, 9])
        = some (true, padded [16, 0, 0xEFEF, 7, 1, 8, 0x00070009, 0, 8]) := by
  decide +kernel

/-- V-CH-7: the kinds that allow a header alone, with their kind numbers. -/
theorem test_header_only_chunk_rows :
    [(Instr.chunkTypeHeartbeat, 4), (.chunkTypeHeartbeatAck, 5), (.chunkTypeAbort, 6), (.chunkTypeShutdownAck, 8),
      (.chunkTypeCookieEcho, 10), (.chunkTypeCookieAck, 11), (.chunkTypeShutdownComplete, 14), (.chunkTypeReserved1, 12),
      (.chunkTypeReserved2, 13)].map (fun r => (rowResult r.1 (region [r.2, 1, 0, 4])).map (·.2.getD 3 99))
      = [some 4, some 5, some 6, some 8, some 10, some 11, some 12, some 13, some 14] := by
  decide +kernel

/-- V-CH-3, V-CH-5, V-CH-6: the shortest chunk of each kind with fixed fields, and one byte less. -/
theorem test_fixed_field_chunk_rows :
    [(Instr.chunkTypeData, 0, 16), (.chunkTypeInit, 1, 20), (.chunkTypeInitAck, 2, 20), (.chunkTypeSack, 3, 16)].map
        (fun r => ((rowResult r.1 (region ([r.2.1, 0, 0, r.2.2] ++ List.replicate (r.2.2 - 4) 0))).map (·.2.getD 3 99),
          rowError r.1 (region ([r.2.1, 0, 0, r.2.2 - 1] ++ List.replicate (r.2.2 - 4) 0))))
      = [(some 0, some (2, 0x42, true)), (some 1, some (2, 0x42, true)), (some 2, some (2, 0x42, true)),
         (some 3, some (2, 0x42, true))] := by
  decide +kernel

/-- V-CH-8, V-CH-9. -/
theorem test_shutdown_and_error_rows :
    rowResult .chunkTypeShutdown (region [7, 0, 0, 8, 0, 0, 0, 1]) = some (true, padded [7, 0, 8, 7, 4, 4, 8, 0, 8, 0, 1])
      ∧ rowError .chunkTypeShutdown (region [7, 0, 0, 4]) = some (2, 0x42, true)
      ∧ rowResult .chunkTypeError (region [9, 0, 0, 8, 0, 1, 0, 4]) = some (true, padded [9, 0, 8, 9, 4, 4, 8, 0, 8, 0, 1])
      ∧ rowError .chunkTypeError (region [9, 0, 0, 4]) = some (2, 0x42, true) := by
  decide +kernel

/-- The parameter `ICMP_ERR_REGION_BYTES = 4`: V-ICMP-21 with `BASE` 0. -/
theorem test_small_error_region :
    rowResult .icmpTypeDestUnreachable
      { region ([3, 1, 0x39, 0x9E, 0, 0, 0, 0] ++ goodHeader ++ [0x4E, 0x20, 0x75, 0x30, 0x00, 0x10, 0x00, 0x00]) with
        params := { defaultParams with icmpErrRegion := 4 } }
      = some (true, padded [3, 1, 0x399E, 1, 0, 36, 0, 0, 8, 20, 28, 8]) := by
  decide +kernel

/-- The race of program P4 of 95: a write while busy is dropped and leaves `OVR` set for the next `STATUS` read. -/
theorem test_write_while_busy :
    let s := { machine 0 2 0 0 (bytesAt 0 [0, 0]) with
      agenda := [.access (.write32 0 1), .access (.write32 0x14 4), .block, .wait, .access (.read32 0x14)] }
    (match runSteps 5 s with
      | .next t => some (t.received, t.res.r0)
      | .fault _ | .refused _ => none) = some ([2#32, 0x0001000E#32], 0xFFFF#32) := by
  decide +kernel

/-- The spot checks of 41 R161. -/
theorem test_crc_table : crcTable 1 = 0xF26B8303 ∧ crcTable 128 = 0x82F63B78 ∧ crcTable 255 = 0xAD7D5351 := by
  decide +kernel

/-- `withFetchWord` puts a command and a type tag where the next step runs them (log 8). -/
theorem test_placed_words_run :
    (match step (State.reset.withFetchWord 32 0x01) with
      | .next t => some t.status.word
      | .fault _ | .refused _ => none) = some 0x00010006#32
    ∧ (match step (State.reset.withFetchWord 8 1) with
      | .next t => some t.status.word
      | .fault _ | .refused _ => none) = some 0x00404222#32 := by
  decide +kernel

/-! ### Witnesses: states and operands that meet the hypotheses of the statements, clause by clause -/

theorem witness_EveryRowDecodesFromItsEncoding : Instr.srst.isCommand = true := rfl

theorem witness_DecodingIsInjective :
    decode (.cmd32 0x7F) = .ok .srst ∧ decode (.icmpType8 16) = .ok .icmpTypeInfoReply
      ∧ decode (.sctpChunkType8 0) = .ok .chunkTypeData := ⟨rfl, rfl, rfl⟩

/-- A busy state with `OC16.GEN` pending. -/
def busy (agenda : List Turn) : State := { accept (region [0, 0]) 0x01 with agenda := agenda }

/-- The state after reset with host turns still to come. -/
def idle (agenda : List Turn) : State := { State.reset with agenda := agenda }

theorem witness_StepRunsPendingCommand :
    (busy []).status.busy = true ∧ decodeCommand (busy []).pending = .ok .oc16Gen ∧ (busy []).agenda = []
      ∧ (busy [.block]).agenda = [.block] ∧ (busy [.wait]).agenda = [.wait] := ⟨rfl, rfl, rfl, rfl, rfl⟩

theorem witness_TurnsOfAnIdleBlock :
    (idle []).status.busy = false ∧ (idle []).agenda = [] ∧ (idle [.block]).agenda = [.block]
      ∧ (idle [.wait]).agenda = [.wait] := ⟨rfl, rfl, rfl, rfl⟩

theorem witness_RunLineRunsItsCommand :
    commandWord .sctpChunkFrame = some 0x41#32 ∧ commandWord .srst = some 0x7F#32 ∧ (machine 1 2 3 4 []).status.busy = false
      ∧ (machine 1 2 3 4 []).agenda = []
      ∧ ∀ line ∈ [[], [5#32, 6#32], [5#32, 6#32, 7#32], [5#32, 6#32, 7#32, 8#32]],
        (Line.run .sctpChunkFrame line).wellFormed = true ∧ ∃ written : Operands,
          (line, written) ∈
            [([], (machine 1 2 3 4 []).ops), ([5#32, 6#32], { a0 := 5, a1 := 6, a2 := 3, a3 := 4 }),
             ([5#32, 6#32, 7#32], { a0 := 5, a1 := 6, a2 := 7, a3 := 4 }),
             ([5#32, 6#32, 7#32, 8#32], { a0 := 5, a1 := 6, a2 := 7, a3 := 8 })] := by
  refine ⟨rfl, rfl, rfl, rfl, fun line h => ?_⟩
  simp only [List.mem_cons, List.not_mem_nil, or_false] at h
  rcases h with rfl | rfl | rfl | rfl
  · exact ⟨rfl, _, .head _⟩
  · exact ⟨rfl, _, .tail _ (.head _)⟩
  · exact ⟨rfl, _, .tail _ (.tail _ (.head _))⟩
  · exact ⟨rfl, _, .tail _ (.tail _ (.tail _ (.head _)))⟩

theorem witness_HardwareResetLeaves : (busy [.hardwareReset, .block]).agenda = [.hardwareReset, .block] := rfl

/-- A state in which an error has been recorded meets the invariant and steps. -/
theorem witness_StepKeepsInvariant :
    State.Inv { State.reset with
      status := { done := true, kind := 7#3, code := 2#8, op := 5#8 }
      agenda := [.access (.write32 0 1)] }
    ∧ ∃ t, step { State.reset with
        status := { done := true, kind := 7#3, code := 2#8, op := 5#8 }
        agenda := [.access (.write32 0 1)] } = .next t ∧ t.status.busy = true :=
  ⟨⟨by decide, ⟨by decide, by decide, fun _ _ => ⟨.illegalCommand, by decide⟩, by decide⟩, fun _ _ => rfl, by decide, by decide⟩,
    _, rfl, rfl⟩

theorem witness_AcceptanceWrites :
    nextAccess (idle [.access (.write32 0 0x20)]) (.write32 0x00 0x20) [] ∧ (idle []).status.busy = false
      ∧ nextAccess (busy [.access (.write32 0 0x20)]) (.write32 0x00 0x20) [] ∧ (busy []).status.busy = true :=
  ⟨rfl, rfl, rfl, rfl⟩

theorem witness_WritesWhileBusy :
    (busy []).status.busy = true
      ∧ nextAccess (busy [.access (.write32 0x1C 3)]) (.write32 0x1C 3) []
      ∧ 0x1C ∈ [0x00, 0x10, 0x14, 0x18, 0x1C]
      ∧ nextAccess (busy [.access (.write8 0x1FFFF 3)]) (.write8 (0x10000 + 65535) 3) []
      ∧ 65535 < (busy []).params.bufBytes
      ∧ nextAccess (busy [.access (.write32 0x20 3)]) (.write32 0x20 3) [] ∧ 0x20 ∉ [0x00, 0x10, 0x14, 0x18, 0x1C]
      ∧ nextAccess (busy [.access (.write32 0xFFFC 3)]) (.write32 0xFFFC 3) []
      ∧ nextAccess (busy [.access (.write8 0x20000 3)]) (.write8 (0x10000 + 65536) 3) []
      ∧ (busy []).params.bufBytes ≤ 65536 := by
  refine ⟨rfl, rfl, by decide, rfl, by decide, rfl, by decide, rfl, rfl, by decide⟩

theorem witness_RegisterWritesWhileIdle :
    (idle []).status.busy = false
      ∧ nextAccess (idle [.access (.write32 0x10 3)]) (.write32 0x10 3) []
      ∧ nextAccess (idle [.access (.write32 0x14 3)]) (.write32 0x14 3) []
      ∧ nextAccess (idle [.access (.write32 0x18 3)]) (.write32 0x18 3) []
      ∧ nextAccess (idle [.access (.write32 0x1C 3)]) (.write32 0x1C 3) []
      ∧ nextAccess (idle [.access (.write32 0x00 3)]) (.write32 0x00 3) []
      ∧ nextAccess (idle [.access (.write32 0x04 3)]) (.write32 0x04 3) []
      ∧ 0x04 ∉ [0x00, 0x10, 0x14, 0x18, 0x1C] := ⟨rfl, rfl, rfl, rfl, rfl, rfl, rfl, by decide⟩

theorem witness_RegisterReads :
    (busy []).params.wellFormed = true ∧ nextAccess (busy [.access (.read32 0x7C)]) (.read32 0x7C) []
      ∧ (0x7C, 0#32) ∈ registerMap (busy []) ∧ (0x0C, 0x01010000#32) ∈ registerMap (busy [])
      ∧ nextAccess (busy [.access (.read32 0x20)]) (.read32 0x20) []
      ∧ (∀ v, (0x20, v) ∉ registerMap (busy [])) ∧ ∀ v, (0xFFFC, v) ∉ registerMap (busy []) := by
  refine ⟨by decide, rfl, by decide, by decide, rfl, ?_, ?_⟩ <;> intro v <;> simp [registerMap]

theorem witness_WindowReadsAndWrites :
    nextAccess (busy [.access (.read8 0x1FFFF)]) (.read8 (0x10000 + 65535)) [] ∧ 65535 < (busy []).params.bufBytes
      ∧ nextAccess (busy [.access (.read8 0x20000)]) (.read8 (0x10000 + 65536)) [] ∧ (busy []).params.bufBytes ≤ 65536
      ∧ nextAccess (idle [.access (.write8 0x10000 7)]) (.write8 (0x10000 + 0) 7) [] ∧ (idle []).status.busy = false
      ∧ 0 < (idle []).params.bufBytes
      ∧ nextAccess (idle [.access (.write8 0x20000 7)]) (.write8 (0x10000 + 65536) 7) [] := by
  refine ⟨rfl, by decide, rfl, by decide, rfl, rfl, by decide, rfl⟩

theorem witness_AbsentAccessesFault :
    nextAccess (idle [.access (.read32 2)]) (.read32 2) [] ∧ nextAccess (idle [.access (.write32 0x10000 0)]) (.write32 0x10000 0) []
      ∧ nextAccess (idle [.access (.read8 0xFFFF)]) (.read8 0xFFFF) []
      ∧ (∃ o, (Access.read32 2 = .read32 o ∨ ∃ v, Access.read32 2 = .write32 o v) ∧ (o % 4 ≠ 0 ∨ 0x10000 ≤ o))
      ∧ (∃ o, (Access.write32 0x10000 0 = .read32 o ∨ ∃ v, Access.write32 0x10000 0 = .write32 o v)
          ∧ (o % 4 ≠ 0 ∨ 0x10000 ≤ o))
      ∧ ∃ o, (Access.read8 0xFFFF = .read8 o ∨ ∃ b, Access.read8 0xFFFF = .write8 o b) ∧ o < 0x10000 :=
  ⟨rfl, rfl, rfl, ⟨2, .inl rfl, .inl (by decide)⟩, ⟨0x10000, .inr ⟨0, rfl⟩, .inr (by decide)⟩, ⟨0xFFFF, .inl rfl, by decide⟩⟩

theorem witness_IllegalCommandCompletes :
    (idle []).status.busy = false
      ∧ (idle [.access (.write32 0x00 0x17F), .block]).agenda = [.access (.write32 0x00 0x17F), .block]
      ∧ (0x17F#32).toNat ∉ opcodes ∧ (0x7E#32).toNat ∉ opcodes := ⟨rfl, rfl, by decide, by decide⟩

theorem witness_Oc16GenResult :
    firstFailure (oc16Checks (machine 65534 2 0 0 [])) = none
      ∧ firstFailure (oc16Checks (machine 65534 3 0 0 [])) = some (7, 0x01)
      ∧ firstFailure (oc16Checks (machine 65535 1 0 0 [])) = some (7, 0x03) := by decide

theorem witness_Oc16ValResult :
    firstFailure (oc16Checks (machine 65536 0 0 0 [])) = none
      ∧ firstFailure (oc16Checks (machine 0 65537 0 0 [])) = some (7, 0x01)
      ∧ firstFailure (oc16Checks (machine 0 5 0 0 [])) = some (7, 0x03) := by decide

theorem witness_Crc32cGenResult :
    firstFailure (crcChecks (machine 0 4 0 0 [])) = none
      ∧ firstFailure (crcChecks (machine 65533 4 0 0 [])) = some (7, 0x01)
      ∧ firstFailure (crcChecks (machine 0 4 1 0 [])) = some (7, 0x04) := by decide

theorem witness_Crc32cValResult :
    firstFailure (crcChecks (machine 65532 4 0 0 [])) = none
      ∧ firstFailure (crcChecks (machine 65536 1 0 0 [])) = some (7, 0x01)
      ∧ firstFailure (crcChecks (machine 0 0 0 0 [])) = some (7, 0x04) := by decide

theorem witness_PadAlign4Result :
    len (machine 0 0xFFFFFFFC 0 0 []) ≤ 0xFFFFFFFC ∧ 0xFFFFFFFC < len (machine 0 0xFFFFFFFD 0 0 []) := by decide

theorem witness_Ip4HdrParseResult :
    firstFailure (ip4Checks (region bareHeader)) = none
      ∧ firstFailure (ip4Checks (machine 65517 20 0 0 [])) = some (7, 0x01)
      ∧ firstFailure (ip4Checks (machine 0 19 0 0 (bytesAt 0 bareHeader))) = some (2, 0x11)
      ∧ firstFailure (ip4Checks (region (0x65 :: bareHeader.drop 1))) = some (1, 0x10)
      ∧ firstFailure (ip4Checks (region (0x44 :: bareHeader.drop 1))) = some (2, 0x12)
      ∧ firstFailure (ip4Checks (region (0x46 :: bareHeader.drop 1))) = some (2, 0x13)
      ∧ firstFailure (ip4Checks (region (bareHeader.take 19 ++ [0x02]))) = some (3, 0x14)
      ∧ firstFailure (ip4Checks (region (0x45 :: 0xAC :: 0 :: 0x13 :: (bareHeader.drop 4).take 6 ++ 0x55 :: 0x77 :: bareHeader.drop 12)))
        = some (2, 0x15) := by
  decide +kernel

theorem witness_Ip4DgramParseResult :
    firstFailure (ip4Checks (region bareHeader) ++ [(decide (len (region bareHeader) < totalLength (region bareHeader)), 2, 0x16)])
        = none
      ∧ firstFailure (ip4Checks (region goodHeader) ++ [(decide (len (region goodHeader) < totalLength (region goodHeader)), 2, 0x16)])
        = some (2, 0x16) := by
  decide +kernel

theorem witness_Ip4CsumPatchResult :
    firstFailure (ip4PatchChecks (region (0x65 :: bareHeader.drop 1))) = none
      ∧ firstFailure (ip4PatchChecks (machine 65517 20 0 0 [])) = some (7, 0x01)
      ∧ firstFailure (ip4PatchChecks (machine 0 19 0 0 (bytesAt 0 [0x45]))) = some (2, 0x11)
      ∧ firstFailure (ip4PatchChecks (machine 0 20 0 0 (bytesAt 0 [0x44]))) = some (2, 0x12)
      ∧ firstFailure (ip4PatchChecks (machine 0 23 0 0 (bytesAt 0 [0x46]))) = some (2, 0x13) := by
  decide +kernel

theorem witness_IcmpParseResult :
    firstFailure (icmpFirstChecks (machine 0 3 0 0 [])) = some (2, 0x21)
      ∧ firstFailure (icmpFirstChecks (machine 65533 4 0 0 [])) = some (7, 0x01)
      ∧ firstFailure (icmpFirstChecks (region [1, 0, 0, 0])) = none
      ∧ icmpRowOf (region [1, 0, 0, 0]).params.icmpTypes ((region [1, 0, 0, 0]).byte (base (region [1, 0, 0, 0]))) = none
      ∧ icmpRowOf (region echoMessage).params.icmpTypes ((region echoMessage).byte (base (region echoMessage))) = some ⟨8, .echo, false⟩
      ∧ firstFailure (icmpKindChecks (region echoMessage) .echo) = none
      ∧ firstFailure (icmpKindChecks (region (echoMessage.take 15)) .echo) = some (7, 0x03) := by
  decide +kernel

theorem witness_IcmpCsumPatchResult :
    firstFailure (icmpFirstChecks (machine 0 4 0 0 []) ++ [(len (machine 0 4 0 0 []) % 2 == 1, 7, 0x03)]) = none
      ∧ firstFailure (icmpFirstChecks (machine 0 3 0 0 []) ++ [(len (machine 0 3 0 0 []) % 2 == 1, 7, 0x03)]) = some (2, 0x21)
      ∧ firstFailure (icmpFirstChecks (machine 0 5 0 0 []) ++ [(len (machine 0 5 0 0 []) % 2 == 1, 7, 0x03)]) = some (7, 0x03) := by
  decide

theorem witness_EchoRowsResult :
    firstFailure (icmpKindChecks (region echoMessage) .echo) = none
      ∧ firstFailure (icmpKindChecks (machine 0 7 0 0 (bytesAt 0 echoMessage)) .echo) = some (2, 0x21)
      ∧ firstFailure (icmpKindChecks (machine 0 9 0 0 (bytesAt 0 echoMessage)) .echo) = some (7, 0x03)
      ∧ firstFailure (icmpKindChecks (region (echoMessage.take 15 ++ [0x78])) .echo) = some (3, 0x23) := by
  decide +kernel

/-- A Redirect message of V-ICMP-12. -/
def redirect : List Nat := errorReport [5, 1, 0x2D, 0x9D, 0x0A, 0, 0, 1]

theorem witness_ErrorReportRowsResult :
    firstFailure (icmpKindChecks (region redirect) .redirect) = none
      ∧ firstFailure (icmpKindChecks (machine 0 12 0 0 (bytesAt 0 redirect)) .redirect) = some (2, 0x21)
      ∧ firstFailure (icmpKindChecks (machine 0 39 0 0 (bytesAt 0 redirect)) .redirect) = some (2, 0x21)
      ∧ firstFailure (icmpKindChecks (region (redirect.take 12 ++ [0x44] ++ redirect.drop 13)) .redirect) = some (2, 0x22)
      ∧ firstFailure (icmpKindChecks (region (redirect.take 39 ++ [1])) .redirect) = some (3, 0x23) := by
  decide +kernel

theorem witness_FixedLengthRowsResult :
    firstFailure (icmpKindChecks (region (timestampMessage 13 0xDB 0x7F)) .timestamp) = none
      ∧ firstFailure (icmpKindChecks (machine 0 19 0 0 (bytesAt 0 (timestampMessage 13 0xDB 0x7F))) .timestamp) = some (2, 0x21)
      ∧ firstFailure (icmpKindChecks (region [15, 0, 0xF0, 0xEF, 0, 7, 0, 9]) .information) = none
      ∧ firstFailure (icmpKindChecks (machine 0 7 0 0 (bytesAt 0 [15, 0, 0xF0, 0xEF, 0, 7, 0, 9])) .information) = some (2, 0x21) := by
  decide +kernel

theorem witness_SctpHdrParseResult :
    firstFailure (sctpHeaderChecks (machine 65524 12 0 0 [])) = none
      ∧ firstFailure (sctpHeaderChecks (machine 65525 12 0 0 [])) = some (7, 0x01)
      ∧ firstFailure (sctpHeaderChecks (machine 0 11 0 0 [])) = some (2, 0x30) := by
  decide

theorem witness_SctpPktCheckResult :
    firstFailure (sctpPacketChecks (region bareHeaderPacket)) = none
      ∧ firstFailure (sctpPacketChecks (machine 65536 12 0 0 (bytesAt 65536 bareHeaderPacket))) = some (7, 0x01)
      ∧ firstFailure (sctpPacketChecks (region (bareHeaderPacket.take 11))) = some (2, 0x30)
      ∧ firstFailure (sctpPacketChecks (region (bareHeaderPacket.take 11 ++ [0x58]))) = some (3, 0x31) := by
  decide +kernel

/-- V-SCTP-8 of 95 after the patch: two bytes left over after a whole chunk. -/
def leftoverPacket : List Nat :=
  [0x4E, 0x20, 0x75, 0x30, 0x00, 0x00, 0x00, 0x7B, 0xF1, 0xA3, 0xA4, 0x6A, 0x0A, 0x00, 0x00, 0x08, 0x01, 0x02, 0x03, 0x04, 0, 0]

theorem witness_SctpPktWalkResult :
    firstFailure (sctpPacketChecks (region packet)) = none
      ∧ WalkCounts (region packet).params (region packet).byte (base (region packet) + 12) (len (region packet) - 12) 2
      ∧ firstFailure (sctpPacketChecks (region leftoverPacket)) = none
      ∧ WalkFails (region leftoverPacket).params (region leftoverPacket).byte (base (region leftoverPacket) + 12)
          (len (region leftoverPacket) - 12) 2 0x41
      ∧ firstFailure (sctpPacketChecks (region (bareHeaderPacket.take 11 ++ [0x58]))) = some (3, 0x31) := by
  refine ⟨by decide +kernel, ?_, by decide +kernel, ?_, by decide +kernel⟩
  · refine .chunk (by decide +kernel) (by decide +kernel) (.chunk (by decide +kernel) (by decide +kernel) ?_)
    rw [show len (region packet) - 12 - roundUp (be2 (region packet).byte (base (region packet) + 12 + 2))
        - roundUp (be2 (region packet).byte (base (region packet) + 12
          + roundUp (be2 (region packet).byte (base (region packet) + 12 + 2)) + 2)) = 0 by decide +kernel]
    exact .done _
  · exact .later (by decide +kernel) (by decide +kernel) (.here (by decide +kernel) (by decide +kernel))

theorem witness_SctpCsumPatchResult :
    firstFailure (sctpHeaderChecks (machine 0 12 0 0 [])) = none
      ∧ firstFailure (sctpHeaderChecks (machine 65536 12 0 0 [])) = some (7, 0x01)
      ∧ firstFailure (sctpHeaderChecks (machine 0 0 0 0 [])) = some (2, 0x30) := by
  decide

/-- The ordered checks of `SCTP.CHUNK.NEXT` on a region. -/
def nextChecks (s : State) : List Check := rangeCheck s :: chunkChecks s.params s.byte (base s) (len s)

theorem witness_SctpChunkNextResult :
    firstFailure (nextChecks (region [0x0E, 1, 0, 4])) = none
      ∧ chunkKindOf (region [0x0E]).params.chunkTypes ((region [0x0E]).byte (base (region [0x0E]))) = some .shutdownComplete
      ∧ firstFailure (nextChecks (machine 65534 3 0 0 [(65534, 0x0E)])) = some (7, 0x01)
      ∧ firstFailure (nextChecks (region [0x0E, 1, 0])) = some (2, 0x41)
      ∧ firstFailure (nextChecks (region [0x0F, 0, 0, 4])) = some (1, 0x40)
      ∧ firstFailure (nextChecks (region [0x0E, 0, 0, 5])) = some (2, 0x42)
      ∧ firstFailure (nextChecks (region [0x04, 0, 0, 5, 0, 0, 0])) = some (2, 0x43) := by
  decide +kernel

theorem witness_SctpChunkFrameResult :
    firstFailure (frameChecks (machine 0 65536 0x0A00 65531 [])) = none
      ∧ chunkKindOf defaultParams.chunkTypes (octet (frameType (machine 0 65536 0x0A00 65531 []))) = some .cookieEcho
      ∧ firstFailure (frameChecks (machine 1 65536 0x0A00 0 [])) = some (7, 0x01)
      ∧ firstFailure (frameChecks (machine 0 16 0x10A00 5 [])) = some (7, 0x01)
      ∧ firstFailure (frameChecks (machine 0 16 0x0F00 5 [])) = some (1, 0x40)
      ∧ firstFailure (frameChecks (machine 0 16 0x0A00 65532 [])) = some (2, 0x44)
      ∧ firstFailure (frameChecks (machine 0 16 0x0700 5 [])) = some (2, 0x42)
      ∧ firstFailure (frameChecks (machine 0 11 0x0A00 5 [])) = some (2, 0x43) := by
  decide +kernel

/-- The ordered checks of a chunk row of kind `k`. -/
def rowChecks (s : State) (k : ChunkKind) : List Check :=
  [rangeCheck s, (decide (len s < 4), 2, 0x41),
   (decide (be2 s.byte (base s + 2) < 4) || !chunkLenOk s.params.chunkTypes k (be2 s.byte (base s + 2)), 2, 0x42),
   (decide (len s < roundUp (be2 s.byte (base s + 2))), 2, 0x43)]

theorem witness_ChunkRowsResult :
    (Instr.chunkTypeData, 0#8, ChunkKind.data, 0, 16, 65535) ∈ chunkRows
      ∧ firstFailure (rowChecks (region ([0, 0, 0, 16] ++ List.replicate 12 0)) .data) = none
      ∧ firstFailure (rowChecks (region ([0, 0, 0, 15] ++ List.replicate 12 0)) .data) = some (2, 0x42)
      ∧ firstFailure (rowChecks (region ([0, 0, 0, 17] ++ List.replicate 13 0)) .data) = some (2, 0x43)
      ∧ firstFailure (rowChecks (region [0, 0, 0]) .data) = some (2, 0x41)
      ∧ firstFailure (rowChecks (machine 65536 4 0 0 (bytesAt 65536 [0, 0, 0, 0])) .data) = some (7, 0x01) := by
  decide +kernel

theorem witness_DefaultIcmpTable :
    (Instr.icmpTypeInfoReply, 16#8, IcmpKind.information, true) ∈ icmpRows ∧ (∀ r ∈ icmpRows, r.2.1 ≠ 17#8)
      ∧ ([⟨8, .timestamp, false⟩, ⟨0xFF, .echo, true⟩].map IcmpRow.tag).Nodup
      ∧ (defaultIcmpTypes.map (·.tag)).Nodup := by decide

theorem witness_DefaultChunkTable :
    (Instr.chunkTypeShutdownComplete, 14#8, ChunkKind.shutdownComplete, 12, 4, 4) ∈ chunkRows
      ∧ (∀ r ∈ chunkRows, r.2.1 ≠ 15#8)
      ∧ ([⟨14, .data, .moreThan 4⟩, ⟨0xFF, .init, .exactly 8⟩].map ChunkRow.type).Nodup
      ∧ ([⟨14, .data, .moreThan 4⟩, ⟨0xFF, .init, .exactly 8⟩].map ChunkRow.kind).Nodup
      ∧ (defaultChunkTypes.map (·.type)).Nodup ∧ (defaultChunkTypes.map (·.kind)).Nodup := by decide

theorem witness_NonStoringRowsFrame :
    storesNothing .sctpPktWalk ∧ (∃ t, exec .sctpPktWalk (region packet) = .next t ∧ t.status.ok = true)
      ∧ storesNothing .chunkTypeShutdown ∧ ∃ t, exec .chunkTypeShutdown (region [7, 0, 0, 8, 0, 0, 0, 1]) = .next t ∧ t.status.ok = true := by
  refine ⟨?_, exists_of_succeeds (by decide +kernel), ?_, exists_of_succeeds (by decide +kernel)⟩ <;> simp [storesNothing]

theorem witness_ChecksumPatchFrame :
    (∃ t, exec .ip4CsumPatch (region goodHeader) = .next t ∧ t.status.ok = true)
      ∧ (∃ t, exec .icmpCsumPatch (region echoMessage) = .next t ∧ t.status.ok = true)
      ∧ ∃ t, exec .sctpCsumPatch (region packet) = .next t ∧ t.status.ok = true := by
  refine ⟨exists_of_succeeds ?_, exists_of_succeeds ?_, exists_of_succeeds ?_⟩ <;> decide +kernel

theorem witness_ChunkFrameFrame :
    ∃ t, exec .sctpChunkFrame (machine 0 16 0x0A00 5 []) = .next t ∧ t.status.ok = true :=
  exists_of_succeeds (by decide +kernel)

theorem witness_StoresStayInRegion :
    ∃ t, exec .sctpCsumPatch (region (bareHeaderPacket.take 8 ++ [0, 0, 0, 0])) = .next t
      ∧ t.byte 11 ≠ (region (bareHeaderPacket.take 8 ++ [0, 0, 0, 0])).byte 11 :=
  ⟨_, rfl, by decide +kernel⟩

theorem witness_ErrorsArePrecise :
    ∃ t, exec .ip4HdrParse (region (0x65 :: bareHeader.drop 1)) = .next t ∧ t.status.done = true ∧ t.status.ok = false :=
  ⟨_, rfl, by decide +kernel, by decide +kernel⟩

theorem witness_SumAndFold : 65536 % 2 = 0 ∧ 65536 ≤ 65536 ∧ 0 < ocSum (fun _ => 0xFF#8) 0 2 := by decide

/-- A reader that delivers these bytes and then zeros. -/
def reader (bytes : List Nat) (a : Nat) : Byte := BitVec.ofNat 8 (bytes.getD a 0)

theorem flipped_head (b j : Nat) (bytes : List Nat) (hj : j < 8) (c : Nat)
    (hc : BitVec.ofNat 8 c = BitVec.ofNat 8 b ^^^ (1#8 <<< j)) : FlippedBit (reader (b :: bytes)) (reader (c :: bytes)) 0 j :=
  ⟨hj, hc, fun x hx => by cases x with
    | zero => exact absurd rfl hx
    | succ x => rfl⟩

theorem witness_SingleBitFailsOneComplement :
    FlippedBit (reader [0xFF, 0xFF]) (reader [0x7F, 0xFF]) 0 7 ∧ 2 % 2 = 0 ∧ 0 < 0 + 2
      ∧ ocVal (reader [0xFF, 0xFF]) 0 2 = true :=
  ⟨flipped_head _ _ _ (by decide) _ (by decide), rfl, by decide, by decide⟩

/-- V-OC-7 and scenario S1 of 95. -/
theorem witness_RecomputeVersusValidate :
    twoFolds (wordSumWithout (reader [0x45, 0, 0, 0x14, 0xBA, 0xEB, 0, 0, 0, 0, 0xFF, 0xFF]) 0 20 10) = 0xFFFF
      ∧ twoFolds (wordSumWithout (reader goodHeader) 0 20 10) ≠ 0xFFFF ∧ 20 % 2 = 0 ∧ 10 % 2 = 0 ∧ 10 + 2 ≤ 20 := by
  decide +kernel

theorem witness_CrcDetectsSingleBit :
    FlippedBit (reader [0, 1, 2, 3, 4]) (reader [1, 1, 2, 3, 4]) 0 0 ∧ 0 < 0 + 5 ∧ ¬(0 + 1 ≤ 0 ∧ 0 < 0 + 1 + 4)
      ∧ 0 + 0 ≤ 0 ∧ 0 < 0 + 0 + 4 :=
  ⟨flipped_head _ _ _ (by decide) _ (by decide), by decide, by decide, by decide, by decide⟩

theorem witness_Ip4RoundTrip :
    (∃ t, exec .ip4HdrParse (region goodHeader) = .next t ∧ t.status.ok = true)
      ∧ (∃ t, exec .ip4CsumPatch (region bareHeader) = .next t ∧ t.status.ok = true)
      ∧ version (region bareHeader) = 4 ∧ 4 * ihl (region bareHeader) ≤ totalLength (region bareHeader) := by
  refine ⟨exists_of_succeeds ?_, exists_of_succeeds ?_, ?_, ?_⟩ <;> decide +kernel

theorem witness_IcmpRoundTrip :
    (∃ t, exec .icmpCsumPatch (region redirect) = .next t ∧ t.status.ok = true)
      ∧ icmpRowOf (region redirect).params.icmpTypes ((region redirect).byte (base (region redirect))) = some ⟨5, .redirect, false⟩
      ∧ firstFailure (lengthChecks (region redirect) .redirect) = none
      ∧ messageLength (region redirect) .redirect = len (region redirect)
      ∧ ∃ t, exec .icmpParse (region redirect) = .next t ∧ t.status.ok = true := by
  refine ⟨exists_of_succeeds ?_, ?_, ?_, ?_, exists_of_succeeds ?_⟩ <;> decide +kernel

theorem witness_SctpRoundTrip :
    (∃ t, exec .sctpCsumPatch (region (packet.take 8 ++ [0, 0, 0, 0] ++ packet.drop 12)) = .next t ∧ t.status.ok = true)
      ∧ ∃ t, exec .sctpPktCheck (region packet) = .next t ∧ t.status.ok = true := by
  refine ⟨exists_of_succeeds ?_, exists_of_succeeds ?_⟩ <;> decide +kernel

theorem witness_ChunkRoundTrip :
    (∃ t, exec .sctpChunkNext (region [0x0D, 0, 0, 7, 1, 2, 3, 0xFF]) = .next t ∧ t.status.ok = true)
      ∧ ∃ t, exec .sctpChunkFrame (machine 0 65536 0x0A00 65531 []) = .next t ∧ t.status.ok = true := by
  refine ⟨exists_of_succeeds ?_, exists_of_succeeds ?_⟩ <;> decide +kernel

/-- The packet of S3 with bit 0 of its last byte flipped (S3 step f). -/
def flippedPacket : State := { region packet with buf := Memory.write (region packet).buf 47 0x0A }

theorem witness_SctpSingleBitRefused :
    flippedPacket.ops = (region packet).ops ∧ flippedPacket.params = (region packet).params
      ∧ FlippedBit (region packet).byte flippedPacket.byte 47 0
      ∧ base (region packet) ≤ 47 ∧ 47 < base (region packet) + len (region packet)
      ∧ ¬(base (region packet) + 8 ≤ 47 ∧ 47 < base (region packet) + 12)
      ∧ ∃ t, exec .sctpPktCheck (region packet) = .next t ∧ t.status.ok = true := by
  refine ⟨rfl, rfl, ⟨by decide, by decide +kernel, fun x hx => ?_⟩, by decide, by decide, by decide,
    exists_of_succeeds (by decide +kernel)⟩
  simp only [State.byte, flippedPacket, Memory.read_write_ne _ _ hx]

/-- Two states that agree on the region `[0, 2)` and differ at byte 2, in the results and in `OVR`. -/
theorem witness_OutcomeDependsOnRegionOnly :
    let s := machine 0 2 0 0 (bytesAt 0 [1, 2, 3])
    let s' : State := { machine 0 2 0 0 (bytesAt 0 [1, 2, 4]) with res := { r0 := 9 }, status := { ovr := true } }
    s'.ops = s.ops ∧ s'.params = s.params ∧ (∀ a, base s ≤ a → a < base s + len s → s'.byte a = s.byte a)
      ∧ s'.byte 2 ≠ s.byte 2 := by
  refine ⟨rfl, rfl, fun a _ ha => ?_, by decide⟩
  have : a < 2 := ha
  rcases (by omega : a = 0 ∨ a = 1) with rfl | rfl <;> rfl

theorem witness_HostAccessesDoNotDisturbCommand :
    let accesses : List Access := [.write32 0x14 4, .read8 0x10000, .write8 0x10001 5, .read32 0x40]
    (busy (accesses.map Turn.access ++ [.block])).status.busy = true ∧ (∀ a ∈ accesses, a.onPort = true)
      ∧ (busy (accesses.map Turn.access ++ [.block])).agenda = accesses.map Turn.access ++ [.block] :=
  ⟨rfl, by decide, rfl⟩

theorem witness_AcceptedCommandCompletes :
    (busy [.access (.write32 0x14 4), .hardwareReset]).status.busy = true
      ∧ (busy [.access (.write32 0x14 4), .hardwareReset]).agendaOnPort := by
  refine ⟨rfl, fun a ha => ?_⟩
  simp [busy] at ha
  subst ha
  decide

end Sys2Proof.Tests
end

/-! # The block's state: the invariant, the frames of the rows, what a row's outcome depends on

Lemmas about the shared operations come first (turns, stores, locality); each obligation is settled at the end of the part
whose lemmas it uses. -/

/-! ### The step, by the head of the agenda (10 R20, log 6) -/

namespace Sys2Proof.Machine

theorem step_of_nil {s : State} (h : s.agenda = []) : step s = blockTurn s := by
  rw [step_eq, takeTurn, h]

theorem step_of_block {s : State} {rest : List Turn} (h : s.agenda = .block :: rest) :
    step s = blockTurn { s with agenda := rest } := by
  rw [step_eq, takeTurn, h]

theorem step_of_wait_busy {s : State} {rest : List Turn} (h : s.agenda = .wait :: rest)
    (hb : s.status.busy = true) : step s = blockTurn s := by
  rw [step_eq, takeTurn, h]
  exact if_pos hb

theorem step_of_wait_idle {s : State} {rest : List Turn} (h : s.agenda = .wait :: rest)
    (hb : s.status.busy = false) : step s = hostAccess (.read32 0x04) { s with agenda := rest } := by
  rw [step_eq, takeTurn, h]
  exact if_neg (by simp [hb])

theorem step_of_access {s : State} {a : Access} {rest : List Turn} (h : s.agenda = .access a :: rest) :
    step s = hostAccess a { s with agenda := rest } := by
  rw [step_eq, takeTurn, h]

theorem step_of_hardwareReset {s : State} {rest : List Turn} (h : s.agenda = .hardwareReset :: rest) :
    step s = .next (hardwareReset { s with agenda := rest }) := by
  rw [step_eq, takeTurn, h]

/-- An access that is not on the port faults (log 9). -/
theorem hostAccess_of_not_onPort {a : Access} (h : a.onPort = false) (s : State) :
    hostAccess a s = .fault .noSuchAccess :=
  if_pos h

/-- A read on the port delivers the register and changes nothing else (20 R70). -/
theorem hostAccess_read32 {o : Nat} (h : (Access.read32 o).onPort = true) (s : State) :
    hostAccess (.read32 o) s = .next (receive s (readReg s o)) :=
  if_neg (by simp [h])

@[simp] theorem readReg_status (s : State) : readReg s 0x04 = s.status.word := rfl

/-! ### `STATUS` as a number (10 R31) -/

/-- The packed word, field by field from the top. -/
theorem Status.word_toNat (st : Status) :
    st.word.toNat =
      (((((st.op.toNat * 256 + st.code.toNat) * 16 + st.kind.toNat) * 2 + st.ovr.toNat) * 2 + st.ok.toNat) * 2
        + st.done.toNat) * 2 + st.busy.toNat := by
  unfold Status.word
  simp only [toNat_append, BitVec.toNat_ofBool, BitVec.toNat_ofNat]
  omega

theorem ite_eq_mul_toNat (b : Bool) (n : Nat) : (if b then n else 0) = n * b.toNat := by
  cases b <;> simp

end Sys2Proof.Machine

namespace Sys2Proof.Proofs

open Sys2Proof.Machine Sys2Proof.Spec

/-- Settles O16, from the packed word read field by field. -/
theorem statusWordFields : Obligations.StatusWordFields := by
  intro st
  simp only [Status.word_toNat, ite_eq_mul_toNat]
  omega

/-- Settles O6, one clause for each head of the agenda. -/
theorem turnsOfAnIdleBlock : Obligations.TurnsOfAnIdleBlock := by
  intro s hidle
  refine ⟨fun h => ?_, fun rest h => ?_, fun rest h => ?_⟩
  · rw [step_of_nil h, blockTurn_idle hidle]
  · rw [step_of_block h]
    exact blockTurn_idle hidle
  · rw [step_of_wait_idle h hidle, hostAccess_read32 (by decide), readReg_status]
    rfl

/-- Settles O8: the first state by evaluation, a reset turn by the fields of `hardwareReset`. -/
theorem hardwareResetLeaves : Obligations.HardwareResetLeaves := by
  refine ⟨⟨rfl, rfl, rfl, rfl, by decide, fun a => rfl, rfl, by decide⟩, fun s rest h => ?_⟩
  exact ⟨_, step_of_hardwareReset h, rfl, rfl, rfl, rfl, rfl, fun a => rfl, rfl⟩

/-- Settles O17: each of the accesses named is off the port, and such an access faults. -/
theorem absentAccessesFault : Obligations.AbsentAccessesFault := by
  intro s a rest hnext habsent
  have hport : a.onPort = false := by
    rcases habsent with ⟨o, rfl | ⟨v, rfl⟩, ho⟩ | ⟨o, rfl | ⟨b, rfl⟩, ho⟩ <;>
      simp only [Access.onPort, Bool.and_eq_false_iff, beq_eq_false_iff_ne, decide_eq_false_iff_not] <;> omega
  rw [step_of_access hnext, hostAccess_of_not_onPort hport]

end Sys2Proof.Proofs

/-! ### Where a row stores (20 R66, R87) -/

namespace Sys2Proof.Machine

/-- A type-tag row evaluates the shared rule of its table, for one kind (30 R135, log 1). -/
theorem ruleOf_of_not_isCommand {i : Instr} (h : i.isCommand = false) :
    (∃ kind reply, ∀ p o rd, ruleOf i p o rd = some (icmpRowRule kind reply p o rd))
      ∨ ∃ kind, ∀ p o rd, ruleOf i p o rd = some (chunkRowRule kind p o rd) := by
  cases i with
  | nop | oc16Gen | oc16Val | crc32cGen | crc32cVal | padAlign4 | ip4HdrParse | ip4DgramParse | ip4CsumPatch
  | icmpParse | icmpCsumPatch | sctpHdrParse | sctpPktCheck | sctpPktWalk | sctpCsumPatch | sctpChunkNext
  | sctpChunkFrame | srst => cases h
  | icmpTypeEchoReply | icmpTypeDestUnreachable | icmpTypeSourceQuench | icmpTypeRedirect | icmpTypeEcho
  | icmpTypeTimeExceeded | icmpTypeParameterProblem | icmpTypeTimestamp | icmpTypeTimestampReply
  | icmpTypeInfoRequest | icmpTypeInfoReply => exact .inl ⟨_, _, fun _ _ _ => rfl⟩
  | chunkTypeData | chunkTypeInit | chunkTypeInitAck | chunkTypeSack | chunkTypeHeartbeat | chunkTypeHeartbeatAck
  | chunkTypeAbort | chunkTypeShutdown | chunkTypeShutdownAck | chunkTypeError | chunkTypeCookieEcho
  | chunkTypeCookieAck | chunkTypeReserved1 | chunkTypeReserved2 | chunkTypeShutdownComplete =>
    exact .inr ⟨_, fun _ _ _ => rfl⟩

/-- A rule that stores nothing when it runs to its end. -/
def StoresNone (r : Rule) : Prop := ∀ d, r = .ok d → d.stores = []

theorem storesNone_error (e : CmdError) : StoresNone (.error e) := fun _ h => by cases h

theorem storesNone_ok (regs : Results) : StoresNone (.ok { regs := regs }) := fun _ h => by cases h; rfl

theorem storesNone_ite {c : Prop} [Decidable c] {r r' : Rule} (h : StoresNone r) (h' : StoresNone r') :
    StoresNone (if c then r else r') := by
  split
  · exact h
  · exact h'

theorem storesNone_guardRegion (p : Params) (o : Operands) {r : Rule} (h : StoresNone r) :
    StoresNone (guardRegion p o r) :=
  fun d hd => h d (guardRegion_ok hd).2

theorem storesNone_icmpPrefix (p : Params) (o : Operands) {r : Rule} (h : StoresNone r) :
    StoresNone (icmpPrefix p o r) :=
  storesNone_guardRegion p o (storesNone_ite (storesNone_error _) h)

theorem storesNone_oc16Guard (p : Params) (o : Operands) (regs : Results) :
    StoresNone (oc16Guard p o { regs := regs }) :=
  storesNone_guardRegion p o (storesNone_ite (storesNone_error _) (storesNone_ok regs))

theorem storesNone_crc32cGuard (p : Params) (o : Operands) (regs : Results) :
    StoresNone (crc32cGuard p o { regs := regs }) :=
  storesNone_guardRegion p o (storesNone_ite (storesNone_error _) (storesNone_ok regs))

theorem storesNone_padAlign4Rule (o : Operands) : StoresNone (padAlign4Rule o) :=
  storesNone_ite (storesNone_error _) (storesNone_ok _)

theorem storesNone_ip4HdrParseRule (p : Params) (o : Operands) (rd : Nat → Byte) :
    StoresNone (ip4HdrParseRule p o rd) := by
  refine storesNone_guardRegion p o ?_
  cases ip4Header rd o.base o.len with
  | error e => exact storesNone_error e
  | ok h => exact storesNone_ok _

theorem storesNone_ip4DgramParseRule (p : Params) (o : Operands) (rd : Nat → Byte) :
    StoresNone (ip4DgramParseRule p o rd) := by
  refine storesNone_guardRegion p o ?_
  cases ip4Header rd o.base o.len with
  | error e => exact storesNone_error e
  | ok h => exact storesNone_ite (storesNone_error _) (storesNone_ok _)

theorem storesNone_icmpDispatched (p : Params) (o : Operands) (rd : Nat → Byte) (kind : IcmpKind) (reply : Bool) :
    StoresNone (icmpDispatched p o rd kind reply) := by
  unfold icmpDispatched
  cases icmpCheck p rd kind o.base o.len with
  | error e => exact storesNone_error e
  | ok mlen => exact storesNone_ok _

theorem storesNone_icmpParseRule (p : Params) (o : Operands) (rd : Nat → Byte) :
    StoresNone (icmpParseRule p o rd) := by
  refine storesNone_icmpPrefix p o ?_
  cases icmpRowOf p.icmpTypes (rd o.base) with
  | none => exact storesNone_error _
  | some row => exact storesNone_icmpDispatched p o rd row.kind row.reply

theorem storesNone_sctpHdrParseRule (p : Params) (o : Operands) (rd : Nat → Byte) :
    StoresNone (sctpHdrParseRule p o rd) :=
  storesNone_guardRegion p o (storesNone_ite (storesNone_error _) (storesNone_ok _))

theorem storesNone_sctpPktCheckRule (p : Params) (o : Operands) (rd : Nat → Byte) :
    StoresNone (sctpPktCheckRule p o rd) :=
  storesNone_guardRegion p o
    (storesNone_ite (storesNone_error _) (storesNone_ite (storesNone_error _) (storesNone_ok _)))

theorem storesNone_sctpPktWalkRule (p : Params) (o : Operands) (rd : Nat → Byte) :
    StoresNone (sctpPktWalkRule p o rd) := by
  refine storesNone_guardRegion p o (storesNone_ite (storesNone_error _) (storesNone_ite (storesNone_error _) ?_))
  cases walkChunks p rd (o.len - 12) (o.base + 12) (o.len - 12) 0 with
  | error e => exact storesNone_error e
  | ok n => exact storesNone_ok _

theorem storesNone_sctpChunkNextRule (p : Params) (o : Operands) (rd : Nat → Byte) :
    StoresNone (sctpChunkNextRule p o rd) := by
  refine storesNone_guardRegion p o ?_
  cases chunkAt p rd o.base o.len with
  | error e => exact storesNone_error e
  | ok c => exact storesNone_ok _

theorem storesNone_chunkRowRule (kind : ChunkKind) (p : Params) (o : Operands) (rd : Nat → Byte) :
    StoresNone (chunkRowRule kind p o rd) := by
  refine storesNone_guardRegion p o (storesNone_ite (storesNone_error _) ?_)
  cases chunkDispatched p rd kind o.base o.len with
  | error e => exact storesNone_error e
  | ok c => exact storesNone_ok _

/-- The rules of `SRST` and of every row that stores nothing. -/
theorem storesNone_ruleOf {i : Instr} {p : Params} {o : Operands} {rd : Nat → Byte} {r : Rule}
    (hi : Spec.storesNothing i) (h : ruleOf i p o rd = some r) : StoresNone r := by
  obtain ⟨hip4, hicmp, hsctp, hframe, -⟩ := hi
  cases hc : i.isCommand with
  | false =>
    obtain ⟨kind, reply, hr⟩ | ⟨kind, hr⟩ := ruleOf_of_not_isCommand hc
    · rw [hr] at h; cases h
      exact storesNone_icmpPrefix p o (storesNone_icmpDispatched p o rd kind reply)
    · rw [hr] at h; cases h
      exact storesNone_chunkRowRule kind p o rd
  | true =>
    cases i with
    | nop => cases h; exact storesNone_ok _
    | oc16Gen | oc16Val => cases h; exact storesNone_oc16Guard p o _
    | crc32cGen | crc32cVal => cases h; exact storesNone_crc32cGuard p o _
    | padAlign4 => cases h; exact storesNone_padAlign4Rule o
    | ip4HdrParse => cases h; exact storesNone_ip4HdrParseRule p o rd
    | ip4DgramParse => cases h; exact storesNone_ip4DgramParseRule p o rd
    | icmpParse => cases h; exact storesNone_icmpParseRule p o rd
    | sctpHdrParse => cases h; exact storesNone_sctpHdrParseRule p o rd
    | sctpPktCheck => cases h; exact storesNone_sctpPktCheckRule p o rd
    | sctpPktWalk => cases h; exact storesNone_sctpPktWalkRule p o rd
    | sctpChunkNext => cases h; exact storesNone_sctpChunkNextRule p o rd
    | ip4CsumPatch => exact absurd rfl hip4
    | icmpCsumPatch => exact absurd rfl hicmp
    | sctpCsumPatch => exact absurd rfl hsctp
    | sctpChunkFrame => exact absurd rfl hframe
    | srst => cases h
    | _ => cases hc

/-! #### The four storing commands -/

theorem ip4CsumPatchRule_ok {p : Params} {o : Operands} {rd : Nat → Byte} {d : Done}
    (h : ip4CsumPatchRule p o rd = .ok d) :
    o.base + o.len ≤ p.bufBytes ∧ 20 ≤ o.len ∧ ∃ v, d.stores = cells2 (o.base + 10) v := by
  obtain ⟨hrange, h⟩ := guardRegion_ok h
  dsimp only at h
  split at h
  · cases h
  next hlen =>
  split at h
  · cases h
  split at h
  · cases h
  cases h
  exact ⟨hrange, by omega, _, rfl⟩

theorem icmpCsumPatchRule_ok {p : Params} {o : Operands} {rd : Nat → Byte} {d : Done}
    (h : icmpCsumPatchRule p o rd = .ok d) :
    o.base + o.len ≤ p.bufBytes ∧ 4 ≤ o.len ∧ ∃ v, d.stores = cells2 (o.base + 2) v := by
  obtain ⟨hrange, hlen, h⟩ := icmpPrefix_ok h
  dsimp only at h
  split at h
  · cases h
  cases h
  exact ⟨hrange, hlen, _, rfl⟩

theorem sctpCsumPatchRule_ok {p : Params} {o : Operands} {rd : Nat → Byte} {d : Done}
    (h : sctpCsumPatchRule p o rd = .ok d) :
    o.base + o.len ≤ p.bufBytes ∧ 12 ≤ o.len ∧ ∃ v, d.stores = cells4 (o.base + 8) v := by
  obtain ⟨hrange, h⟩ := guardRegion_ok h
  dsimp only at h
  split at h
  · cases h
  next hlen =>
  cases h
  exact ⟨hrange, by omega, _, rfl⟩

theorem sctpChunkFrameRule_ok {p : Params} {o : Operands} {d : Done} (h : sctpChunkFrameRule p o = .ok d) :
    o.base + o.len ≤ p.bufBytes ∧ align4 (4 + o.valueLen) ≤ o.len
      ∧ ∃ c : Chunk, c.length = 4 + o.valueLen ∧ d.stores = frameCells o.base c := by
  obtain ⟨hrange, h⟩ := guardRegion_ok h
  dsimp only at h
  split at h
  · cases h
  split at h
  · cases h
  split at h
  · cases h
  split at h
  · cases h
  split at h
  · cases h
  next hfit =>
  cases h
  exact ⟨hrange, by omega, _, rfl, rfl⟩

/-- Every store of a row lies in its region, and the region in `BUF` (20 R66). -/
theorem ruleOf_store_mem {i : Instr} {p : Params} {o : Operands} {rd : Nat → Byte} {d : Done} {c : Host.Cell}
    (h : ruleOf i p o rd = some (.ok d)) (hc : c ∈ d.stores) :
    o.base ≤ c.1 ∧ c.1 < o.base + o.len ∧ o.base + o.len ≤ p.bufBytes := by
  by_cases hi : Spec.storesNothing i
  · rw [storesNone_ruleOf hi h d rfl] at hc
    cases hc
  simp only [Spec.storesNothing, ← not_or, not_not] at hi
  obtain rfl | rfl | rfl | rfl | rfl := hi
  · obtain ⟨hrange, hlen, v, hd⟩ := ip4CsumPatchRule_ok (Option.some.inj h)
    have := mem_cells2 (hd ▸ hc)
    omega
  · obtain ⟨hrange, hlen, v, hd⟩ := icmpCsumPatchRule_ok (Option.some.inj h)
    have := mem_cells2 (hd ▸ hc)
    omega
  · obtain ⟨hrange, hlen, v, hd⟩ := sctpCsumPatchRule_ok (Option.some.inj h)
    have := mem_cells4 (hd ▸ hc)
    omega
  · obtain ⟨hrange, hfit, k, hk, hd⟩ := sctpChunkFrameRule_ok (Option.some.inj h)
    have hlo := le_align4 k.length
    rw [hk] at hlo
    have hmem := mem_frameCells (hd ▸ hc)
    rw [chunkWireLen, hk] at hmem
    omega
  · cases h

/-! #### What a row's completion keeps -/

theorem commandFrame_succeed (s : State) (d : Done) : Spec.commandFrame s (succeed s d) :=
  ⟨rfl, rfl, rfl, rfl, rfl, rfl, rfl, rfl⟩

theorem commandFrame_raiseError (s : State) (e : CmdError) : Spec.commandFrame s (raiseError s e) :=
  ⟨rfl, rfl, rfl, rfl, rfl, rfl, rfl, rfl⟩

/-- A row other than `SRST` changes only the bytes its stores name, and keeps everything else but results and outcome
(60 R340): `P` holds of the offsets its stores can name. -/
theorem exec_frame {i : Instr} {s t : State} (hi : i ≠ .srst) (h : exec i s = .next t) {P : Nat → Prop}
    (hP : ∀ d, ruleOf i s.params s.ops s.byte = some (.ok d) → ∀ c ∈ d.stores, P c.1) :
    (∀ a, ¬P a → t.byte a = s.byte a) ∧ Spec.commandFrame s t := by
  obtain ⟨hsrst, -⟩ | ⟨d, hd, rfl⟩ | ⟨e, -, rfl⟩ := exec_next_cases h
  · exact absurd hsrst hi
  · refine ⟨fun a ha => byte_succeed_of_not_mem fun c hc hca => ha ?_, commandFrame_succeed s d⟩
    exact hca ▸ hP d hd c hc
  · exact ⟨fun a _ => rfl, commandFrame_raiseError s e⟩

end Sys2Proof.Machine

namespace Sys2Proof.Proofs

open Sys2Proof.Machine Sys2Proof.Spec

/-- Settles O43: the rule of such a row stores nothing, so the buffer list itself is kept. -/
theorem nonStoringRowsFrame : Obligations.NonStoringRowsFrame := by
  intro i s t hi h
  have ⟨_, _, _, _, hsrst⟩ := hi
  obtain ⟨hi', -⟩ | ⟨d, hd, rfl⟩ | ⟨e, -, rfl⟩ := exec_next_cases h
  · exact absurd hi' hsrst
  · have hbuf : (succeed s d).buf = s.buf := by
      rw [succeed_buf, storesNone_ruleOf hi hd d rfl, Memory.writeAll_nil]
    exact ⟨fun a => by simp only [State.byte, hbuf, succeed_resetEpoch], hbuf, commandFrame_succeed s d⟩
  · exact ⟨fun a => rfl, rfl, commandFrame_raiseError s e⟩

/-- Settles O44, one case for each of the three patch commands. -/
theorem checksumPatchFrame : Obligations.ChecksumPatchFrame := by
  intro i offset width s t hrow h
  simp only [List.mem_cons, Prod.mk.injEq, List.not_mem_nil, or_false] at hrow
  obtain ⟨rfl, rfl, rfl⟩ | ⟨rfl, rfl, rfl⟩ | ⟨rfl, rfl, rfl⟩ := hrow
  · refine exec_frame (by decide) h fun d hd c hc => ?_
    obtain ⟨-, -, v, hstores⟩ := ip4CsumPatchRule_ok (Option.some.inj hd)
    have hat : c.1 = s.ops.a0.toNat + 10 ∨ c.1 = s.ops.a0.toNat + 10 + 1 := mem_cells2 (hstores ▸ hc)
    omega
  · refine exec_frame (by decide) h fun d hd c hc => ?_
    obtain ⟨-, -, v, hstores⟩ := icmpCsumPatchRule_ok (Option.some.inj hd)
    have hat : c.1 = s.ops.a0.toNat + 2 ∨ c.1 = s.ops.a0.toNat + 2 + 1 := mem_cells2 (hstores ▸ hc)
    omega
  · refine exec_frame (by decide) h fun d hd c hc => ?_
    obtain ⟨-, -, v, hstores⟩ := sctpCsumPatchRule_ok (Option.some.inj hd)
    exact mem_cells4 (hstores ▸ hc)

/-- Settles O45: a byte outside both ranges is named by no store of the frame. -/
theorem chunkFrameFrame : Obligations.ChunkFrameFrame := by
  intro s t h
  obtain ⟨hbytes, hframe⟩ := exec_frame (by decide) h
    (P := fun a => (base s ≤ a ∧ a < base s + 4)
      ∨ (base s + frameLength s ≤ a ∧ a < base s + roundUp (frameLength s))) fun d hd c hc => by
      obtain ⟨-, -, k, hk, hstores⟩ := sctpChunkFrameRule_ok (Option.some.inj hd)
      have hk' : k.length = frameLength s := hk
      have hmem := mem_frameCells (hstores ▸ hc)
      rw [chunkWireLen, hk', ← roundUp_eq] at hmem
      exact hmem.imp id fun ⟨hlo, hhi, _⟩ => ⟨hlo, hhi⟩
  exact ⟨fun a hheader hpadding => hbytes a (not_or.2 ⟨hheader, hpadding⟩), hframe⟩

end Sys2Proof.Proofs

/-! ### The invariant of the block (10 R31, 60 R341, 20 R66) -/

namespace Sys2Proof.Machine

theorem Status.legal_reset : Status.Legal {} where
  busy h := by cases h
  success h := by cases h
  failure h := by cases h
  fresh _ _ := rfl

theorem Status.legal_accepted (st : Status) (c : BitVec 8) : (st.accepted c).Legal where
  busy _ := ⟨rfl, rfl, rfl, rfl⟩
  success h := by cases h
  failure h := by cases h
  fresh _ h := by cases h

theorem Status.legal_succeeded (st : Status) : st.succeeded.Legal where
  busy h := by cases h
  success _ _ := ⟨rfl, rfl⟩
  failure _ h := by cases h
  fresh h := by cases h

theorem Status.legal_failed (st : Status) (e : CmdError) : (st.failed e).Legal where
  busy h := by cases h
  success _ h := by cases h
  failure _ _ := ⟨e, rfl, rfl⟩
  fresh h := by cases h

/-- `OVR` is set on a busy block alone, so the combination without `BUSY` and `DONE` keeps `OVR = 0`. -/
theorem Status.legal_overrun {st : Status} (h : st.Legal) (hb : st.busy = true) : st.overrun.Legal where
  busy := h.busy
  success := h.success
  failure hd _ := by rw [overrun_done, (h.busy hb).1] at hd; cases hd
  fresh _ hi := by rw [overrun_busy, hb] at hi; cases hi

/-- The invariant speaks of the results, `STATUS`, the buffer list and the parameters alone. -/
theorem State.Inv.of_fields_eq {s t : State} (h : s.Inv) (hres : t.res = s.res) (hstatus : t.status = s.status)
    (hbuf : t.buf = s.buf) (hparams : t.params = s.params) : t.Inv where
  params := hparams ▸ h.params
  status := hstatus ▸ h.status
  cleared := by rw [hstatus, hres]; exact h.cleared
  canonical := hbuf ▸ h.canonical
  within := by rw [hbuf, hparams]; exact h.within

theorem State.Inv.succeed {s : State} (h : s.Inv) {d : Done} (hd : ∀ c ∈ d.stores, c.1 < s.params.bufBytes) :
    (succeed s d).Inv where
  params := h.params
  status := s.status.legal_succeeded
  cleared _ hok := by cases hok
  canonical := Memory.wf_writeAll d.stores h.canonical
  within := Memory.within_writeAll d.stores hd h.within

theorem State.Inv.raiseError {s : State} (h : s.Inv) (e : CmdError) : (raiseError s e).Inv where
  params := h.params
  status := s.status.legal_failed e
  cleared _ _ := rfl
  canonical := h.canonical
  within := h.within

theorem State.Inv.accept {s : State} (h : s.Inv) (v : Word) : (accept s v).Inv where
  params := h.params
  status := s.status.legal_accepted _
  cleared hd := by cases hd
  canonical := h.canonical
  within := h.within

theorem State.Inv.dropWrite {s : State} (h : s.Inv) (hb : s.status.busy = true) : (dropWrite s).Inv where
  params := h.params
  status := Status.legal_overrun h.status hb
  cleared := h.cleared
  canonical := h.canonical
  within := h.within

theorem State.Inv.softReset {s : State} (h : s.Inv) : (softReset s).Inv where
  params := h.params
  status := Status.legal_reset
  cleared hd := by cases hd
  canonical := h.canonical
  within := h.within

theorem State.Inv.hardwareReset {s : State} (h : s.Inv) : (hardwareReset s).Inv where
  params := h.params
  status := Status.legal_reset
  cleared hd := by cases hd
  canonical := rfl
  within := rfl

theorem State.Inv.writeByte {s : State} (h : s.Inv) {j : Nat} (hj : j < s.params.bufBytes) (b : Byte) :
    State.Inv { s with buf := Memory.write s.buf j b } where
  params := h.params
  status := h.status
  cleared := h.cleared
  canonical := Memory.wf_write j b h.canonical
  within := Memory.within_write b hj h.within

/-- No turn's effect on the invariant depends on the turns after it. -/
theorem State.Inv.withAgenda {s : State} (h : s.Inv) (turns : List Turn) : State.Inv { s with agenda := turns } :=
  h.of_fields_eq rfl rfl rfl rfl

theorem State.Inv.exec {s t : State} (h : s.Inv) {i : Instr} (hexec : exec i s = .next t) : t.Inv := by
  obtain ⟨-, rfl⟩ | ⟨d, hd, rfl⟩ | ⟨e, -, rfl⟩ := exec_next_cases hexec
  · exact h.softReset
  · refine h.succeed fun c hc => ?_
    obtain ⟨-, hhi, hbuf⟩ := ruleOf_store_mem hd hc
    omega
  · exact h.raiseError e

theorem State.Inv.blockTurn {s t : State} (h : s.Inv) (hturn : blockTurn s = .next t) : t.Inv := by
  cases hb : s.status.busy with
  | false =>
    rw [blockTurn_idle hb] at hturn
    cases hturn
    exact h
  | true =>
    rw [blockTurn_busy hb] at hturn
    obtain ⟨i, -, hc⟩ | ⟨r, -, hc⟩ := completePending_cases s
    · exact h.exec (hc ▸ hturn)
    · rw [hc] at hturn
      cases hturn
      exact h.raiseError _

theorem State.Inv.writeReg {s : State} (h : s.Inv) (o : Nat) (v : Word) : (writeReg s o v).Inv := by
  obtain hw | ⟨hb, hw⟩ | ⟨-, hw | ⟨ops, hw⟩⟩ := writeReg_cases s o v <;> rw [hw]
  · exact h
  · exact h.dropWrite hb
  · exact h.accept v
  · exact h.of_fields_eq rfl rfl rfl rfl

theorem State.Inv.writeWindow {s : State} (h : s.Inv) (j : Nat) (b : Byte) : (writeWindow s j b).Inv := by
  obtain hw | ⟨hb, -, hw⟩ | ⟨-, hj, hw⟩ := writeWindow_cases s j b <;> rw [hw]
  · exact h
  · exact h.dropWrite hb
  · exact h.writeByte hj b

theorem State.Inv.hostAccess {s t : State} (h : s.Inv) {a : Access} (ha : hostAccess a s = .next t) : t.Inv := by
  obtain ⟨-, hc⟩ | ⟨-, ⟨v, hc⟩ | ⟨o, v, hc⟩ | ⟨j, b, hc⟩⟩ := hostAccess_cases a s <;> rw [hc] at ha <;> cases ha
  · exact h.of_fields_eq rfl rfl rfl rfl
  · exact h.writeReg o v
  · exact h.writeWindow j b

end Sys2Proof.Machine

namespace Sys2Proof.Proofs

open Sys2Proof.Machine Sys2Proof.Spec

/-- Settles O10, one case for each move a step can make. -/
theorem stepKeepsInvariant : Obligations.StepKeepsInvariant := by
  intro s t hinv hstep
  obtain ⟨-, h⟩ | ⟨rest, -, h⟩ | ⟨-, -, -, h⟩ | ⟨rest, -, -, h⟩ | ⟨a, rest, -, h⟩ | ⟨rest, -, h⟩ := step_cases s
  · exact hinv.blockTurn (h ▸ hstep)
  · exact (hinv.withAgenda rest).blockTurn (h ▸ hstep)
  · exact hinv.blockTurn (h ▸ hstep)
  · exact (hinv.withAgenda rest).hostAccess (h ▸ hstep)
  · exact (hinv.withAgenda rest).hostAccess (h ▸ hstep)
  · cases h ▸ hstep
    exact (hinv.withAgenda rest).hardwareReset

/-- Settles O9: the default parameters are legal, and no field of the first state has left its reset value. -/
theorem resetMeetsInvariant : Obligations.ResetMeetsInvariant where
  params := by decide
  status := Status.legal_reset
  cleared hd := by cases hd
  canonical := rfl
  within := rfl

end Sys2Proof.Proofs

/-! ### A rule reads its region alone (10 R28, 20 R66)

Each lemma compares a function over two readers that agree on the region `[base, base + len)`; a check that a length
passes is what puts the next field read inside the region. -/

namespace Sys2Proof.Machine

variable {rd rd' : Nat → Byte} {p : Params} {o : Operands} {base len : Nat}

/-! #### One's-complement sums and the IPv4 header -/

theorem oc16GenRule_congr (h : AgreeOn rd rd' o.base (o.base + o.len)) :
    oc16GenRule p o rd = oc16GenRule p o rd' := by
  unfold oc16GenRule ocGen
  rw [ocSum_congr h]

theorem oc16ValRule_congr (h : AgreeOn rd rd' o.base (o.base + o.len)) :
    oc16ValRule p o rd = oc16ValRule p o rd' := by
  unfold oc16ValRule ocVal
  rw [ocSum_congr h]

theorem ip4Header_congr (h : AgreeOn rd rd' base (base + len)) : ip4Header rd base len = ip4Header rd' base len := by
  unfold ip4Header
  refine ite_congr rfl (fun _ => rfl) fun hlen => ?_
  rw [ip4Fields_congr (h.mono le_rfl (by omega))]
  refine ite_congr rfl (fun _ => rfl) fun _ => ite_congr rfl (fun _ => rfl) fun hihl =>
    ite_congr rfl (fun _ => rfl) fun hfits => ?_
  have hhdr : 20 ≤ ip4HdrLen (ip4Fields rd' base) := by unfold ip4HdrLen; omega
  rw [ocGenZ_congr (by omega) (h.mono le_rfl (by omega))]

theorem ip4HdrParseRule_congr (h : AgreeOn rd rd' o.base (o.base + o.len)) :
    ip4HdrParseRule p o rd = ip4HdrParseRule p o rd' := by
  unfold ip4HdrParseRule
  rw [ip4Header_congr h]

theorem ip4DgramParseRule_congr (h : AgreeOn rd rd' o.base (o.base + o.len)) :
    ip4DgramParseRule p o rd = ip4DgramParseRule p o rd' := by
  unfold ip4DgramParseRule
  rw [ip4Header_congr h]

theorem ip4CsumPatchRule_congr (h : AgreeOn rd rd' o.base (o.base + o.len)) :
    ip4CsumPatchRule p o rd = ip4CsumPatchRule p o rd' := by
  unfold ip4CsumPatchRule
  refine congrArg (guardRegion p o) (ite_congr rfl (fun _ => rfl) fun hlen => ?_)
  rw [ip4Fields_congr (h.mono le_rfl (by omega))]
  refine ite_congr rfl (fun _ => rfl) fun hihl => ite_congr rfl (fun _ => rfl) fun hfits => ?_
  have hhdr : 20 ≤ ip4HdrLen (ip4Fields rd' o.base) := by unfold ip4HdrLen; omega
  rw [ocGenZ_congr (by omega) (h.mono le_rfl (by omega))]

/-! #### CRC32c and the SCTP packet -/

theorem crc32c_congr_region (k : Nat) (h : AgreeOn rd rd' base (base + len)) :
    crc32c rd base len k = crc32c rd' base len k :=
  crc32c_congr fun i hi _ => h (base + i) (by omega) (by omega)

theorem crc32cGenRule_congr (h : AgreeOn rd rd' o.base (o.base + o.len)) :
    crc32cGenRule p o rd = crc32cGenRule p o rd' := by
  unfold crc32cGenRule
  rw [crc32c_congr_region o.ckOff h]

theorem crc32cValRule_congr (h : AgreeOn rd rd' o.base (o.base + o.len)) :
    crc32cValRule p o rd = crc32cValRule p o rd' := by
  unfold crc32cValRule crc32cGuard
  refine congrArg (guardRegion p o) (ite_congr rfl (fun _ => rfl) fun hfield => ?_)
  rw [crc32c_congr_region o.ckOff h, memRead4_congr (h.mono (by omega) (by omega))]

theorem sctpHdrRegs_congr (hlen : 12 ≤ len) (h : AgreeOn rd rd' base (base + len)) :
    sctpHdrRegs rd base len = sctpHdrRegs rd' base len := by
  unfold sctpHdrRegs
  rw [memRead2_congr (h.mono le_rfl (by omega)),
    memRead2_congr (h.mono (by omega) (by omega) : AgreeOn _ _ (base + 2) _),
    memRead4_congr (h.mono (by omega) (by omega) : AgreeOn _ _ (base + 4) _),
    memRead4_congr (h.mono (by omega) (by omega) : AgreeOn _ _ (base + 8) _)]

theorem sctpCrcOk_congr (hlen : 12 ≤ len) (h : AgreeOn rd rd' base (base + len)) :
    sctpCrcOk rd base len = sctpCrcOk rd' base len := by
  unfold sctpCrcOk
  rw [crc32c_congr_region 8 h, memRead4_congr (h.mono (by omega) (by omega))]

theorem sctpHdrParseRule_congr (h : AgreeOn rd rd' o.base (o.base + o.len)) :
    sctpHdrParseRule p o rd = sctpHdrParseRule p o rd' := by
  unfold sctpHdrParseRule
  refine congrArg (guardRegion p o) (ite_congr rfl (fun _ => rfl) fun hlen => ?_)
  rw [sctpHdrRegs_congr (by omega) h]

theorem sctpPktCheckRule_congr (h : AgreeOn rd rd' o.base (o.base + o.len)) :
    sctpPktCheckRule p o rd = sctpPktCheckRule p o rd' := by
  unfold sctpPktCheckRule
  refine congrArg (guardRegion p o) (ite_congr rfl (fun _ => rfl) fun hlen => ?_)
  rw [sctpCrcOk_congr (by omega) h, sctpHdrRegs_congr (by omega) h]

theorem sctpCsumPatchRule_congr (h : AgreeOn rd rd' o.base (o.base + o.len)) :
    sctpCsumPatchRule p o rd = sctpCsumPatchRule p o rd' := by
  unfold sctpCsumPatchRule
  rw [crc32c_congr_region 8 h]

/-! #### Chunks -/

theorem chunkDispatched_congr {kind : ChunkKind} (hlen : 4 ≤ len) (h : AgreeOn rd rd' base (base + len)) :
    chunkDispatched p rd kind base len = chunkDispatched p rd' kind base len := by
  unfold chunkDispatched
  rw [memRead2_congr (h.mono (by omega) (by omega)), h base (by omega) (by omega), h (base + 1) (by omega) (by omega)]

theorem chunkAt_congr (h : AgreeOn rd rd' base (base + len)) : chunkAt p rd base len = chunkAt p rd' base len := by
  unfold chunkAt
  refine ite_congr rfl (fun _ => rfl) fun hlen => ?_
  rw [h base (by omega) (by omega)]
  cases chunkKindOf p.chunkTypes (rd' base) with
  | none => rfl
  | some kind => exact chunkDispatched_congr (by omega) h

/-- Each chunk of the walk lies inside what remains, so the walk never leaves the region. -/
theorem walkChunks_congr {fuel cur rem n : Nat} (h : AgreeOn rd rd' cur (cur + rem)) :
    walkChunks p rd fuel cur rem n = walkChunks p rd' fuel cur rem n := by
  induction fuel generalizing cur rem n with
  | zero => rfl
  | succ fuel ih =>
    unfold walkChunks
    refine ite_congr rfl (fun _ => rfl) fun _ => ?_
    rw [chunkAt_congr h]
    cases hc : chunkAt p rd' cur rem with
    | error e => rfl
    | ok c =>
      obtain ⟨-, hfits⟩ := chunkAt_wireLen hc
      exact ih (h.mono (by omega) (by omega))

theorem sctpPktWalkRule_congr (h : AgreeOn rd rd' o.base (o.base + o.len)) :
    sctpPktWalkRule p o rd = sctpPktWalkRule p o rd' := by
  unfold sctpPktWalkRule
  refine congrArg (guardRegion p o) (ite_congr rfl (fun _ => rfl) fun hlen => ?_)
  rw [sctpCrcOk_congr (by omega) h, sctpHdrRegs_congr (by omega) h,
    walkChunks_congr (h.mono (by omega) (by omega))]

theorem sctpChunkNextRule_congr (h : AgreeOn rd rd' o.base (o.base + o.len)) :
    sctpChunkNextRule p o rd = sctpChunkNextRule p o rd' := by
  unfold sctpChunkNextRule
  rw [chunkAt_congr h]

theorem chunkRowRule_congr {kind : ChunkKind} (h : AgreeOn rd rd' o.base (o.base + o.len)) :
    chunkRowRule kind p o rd = chunkRowRule kind p o rd' := by
  unfold chunkRowRule
  refine congrArg (guardRegion p o) (ite_congr rfl (fun _ => rfl) fun hlen => ?_)
  rw [chunkDispatched_congr (by omega) h]

/-! #### ICMP messages -/

theorem icmpLength_congr {kind : IcmpKind} (h : AgreeOn rd rd' base (base + len)) :
    icmpLength p rd kind base len = icmpLength p rd' kind base len := by
  cases kind with
  | echo | timestamp | information => rfl
  | destUnreachable | sourceQuench | redirect | timeExceeded | parameterProblem =>
    refine ite_congr rfl (fun _ => rfl) fun hlen => ?_
    unfold icmpOrigHdrLen
    rw [h (base + icmpOrigOffset p) (by omega) (by omega)]

theorem icmpCheck_congr {kind : IcmpKind} (h : AgreeOn rd rd' base (base + len)) :
    icmpCheck p rd kind base len = icmpCheck p rd' kind base len := by
  unfold icmpCheck
  rw [icmpLength_congr h]
  cases hl : icmpLength p rd' kind base len with
  | error e => rfl
  | ok mlen =>
    obtain ⟨hle, hmin⟩ := icmpLength_le hl
    dsimp only
    rw [memRead2_congr (h.mono (by omega) (by omega)), ocGenZ_congr (by omega) (h.mono le_rfl (by omega))]

/-- How many bytes of a message its result columns read (43 R216), for a kind whose length rule is met. -/
def icmpColumnBytes (p : Params) : IcmpKind → Nat
  | .echo | .information => 8
  | .timestamp => 20
  | .destUnreachable | .sourceQuench | .redirect | .timeExceeded | .parameterProblem => max 12 (icmpOrigOffset p + 1)

/-- The length rule of a kind covers the bytes its columns read. -/
theorem icmpColumnBytes_le {kind : IcmpKind} {mlen : Nat} (h : icmpLength p rd kind base len = .ok mlen) :
    icmpColumnBytes p kind ≤ len := by
  cases kind with
  | echo | timestamp | information =>
    unfold icmpLength at h
    dsimp only at h
    split at h
    · cases h
    next hlen => exact Nat.not_lt.1 hlen
  | destUnreachable | sourceQuench | redirect | timeExceeded | parameterProblem =>
    unfold icmpLength at h
    dsimp only at h
    split at h
    · cases h
    next hlen =>
    split at h
    · cases h
    split at h
    · cases h
    next hmlen =>
    simp only [icmpColumnBytes, icmpOrigOffset] at *
    omega

theorem icmpRegs_congr {kind : IcmpKind} {reply : Bool} {mlen : Nat}
    (h : AgreeOn rd rd' base (base + icmpColumnBytes p kind)) :
    icmpRegs p rd kind reply base mlen = icmpRegs p rd' kind reply base mlen := by
  have hmin : 8 ≤ icmpColumnBytes p kind := by cases kind <;> simp [icmpColumnBytes]
  unfold icmpRegs
  rw [h base (by omega) (by omega), h (base + 1) (by omega) (by omega),
    memRead2_congr (h.mono (by omega) (by omega)),
    memRead4_congr (h.mono (by omega) (by omega) : AgreeOn _ _ (base + 4) _)]
  cases kind with
  | echo | information => rfl
  | timestamp =>
    dsimp only
    have hsize : icmpColumnBytes p .timestamp = 20 := rfl
    rw [memRead4_congr (h.mono (by omega) (by omega) : AgreeOn _ _ (base + 8) _),
      memRead4_congr (h.mono (by omega) (by omega) : AgreeOn _ _ (base + 12) _),
      memRead4_congr (h.mono (by omega) (by omega) : AgreeOn _ _ (base + 16) _)]
  | destUnreachable | sourceQuench | redirect | timeExceeded | parameterProblem =>
    simp only [icmpColumnBytes] at h
    dsimp only
    unfold icmpOrigHdrLen
    rw [memRead4_congr (h.mono (by omega) (by omega) : AgreeOn _ _ (base + 8) _),
      h (base + icmpOrigOffset p) (by omega) (by omega)]

theorem icmpDispatched_congr {kind : IcmpKind} {reply : Bool} (h : AgreeOn rd rd' o.base (o.base + o.len)) :
    icmpDispatched p o rd kind reply = icmpDispatched p o rd' kind reply := by
  unfold icmpDispatched
  rw [icmpCheck_congr h]
  cases hc : icmpCheck p rd' kind o.base o.len with
  | error e => rfl
  | ok mlen =>
    have hsize := icmpColumnBytes_le (icmpCheck_ok_iff.1 hc).1
    dsimp only
    rw [icmpRegs_congr (h.mono le_rfl (by omega))]

theorem icmpParseRule_congr (h : AgreeOn rd rd' o.base (o.base + o.len)) :
    icmpParseRule p o rd = icmpParseRule p o rd' := by
  unfold icmpParseRule icmpPrefix
  refine congrArg (guardRegion p o) (ite_congr rfl (fun _ => rfl) fun hlen => ?_)
  rw [h o.base (by omega) (by omega)]
  cases icmpRowOf p.icmpTypes (rd' o.base) with
  | none => rfl
  | some row => exact icmpDispatched_congr h

theorem icmpRowRule_congr {kind : IcmpKind} {reply : Bool} (h : AgreeOn rd rd' o.base (o.base + o.len)) :
    icmpRowRule kind reply p o rd = icmpRowRule kind reply p o rd' :=
  congrArg (icmpPrefix p o) (icmpDispatched_congr h)

theorem icmpCsumPatchRule_congr (h : AgreeOn rd rd' o.base (o.base + o.len)) :
    icmpCsumPatchRule p o rd = icmpCsumPatchRule p o rd' := by
  unfold icmpCsumPatchRule icmpPrefix
  refine congrArg (guardRegion p o) (ite_congr rfl (fun _ => rfl) fun hlen => ?_)
  rw [ocGenZ_congr (by omega) h]

/-! #### Every row -/

/-- The rule of a row depends on its region's bytes alone (10 R28). -/
theorem ruleOf_congr (i : Instr) (h : AgreeOn rd rd' o.base (o.base + o.len)) : ruleOf i p o rd = ruleOf i p o rd' := by
  cases hc : i.isCommand with
  | false =>
    obtain ⟨kind, reply, hr⟩ | ⟨kind, hr⟩ := ruleOf_of_not_isCommand hc
    · rw [hr, hr, icmpRowRule_congr h]
    · rw [hr, hr, chunkRowRule_congr h]
  | true =>
    cases i with
    | nop | padAlign4 | sctpChunkFrame | srst => rfl
    | oc16Gen => exact congrArg some (oc16GenRule_congr h)
    | oc16Val => exact congrArg some (oc16ValRule_congr h)
    | crc32cGen => exact congrArg some (crc32cGenRule_congr h)
    | crc32cVal => exact congrArg some (crc32cValRule_congr h)
    | ip4HdrParse => exact congrArg some (ip4HdrParseRule_congr h)
    | ip4DgramParse => exact congrArg some (ip4DgramParseRule_congr h)
    | ip4CsumPatch => exact congrArg some (ip4CsumPatchRule_congr h)
    | icmpParse => exact congrArg some (icmpParseRule_congr h)
    | icmpCsumPatch => exact congrArg some (icmpCsumPatchRule_congr h)
    | sctpHdrParse => exact congrArg some (sctpHdrParseRule_congr h)
    | sctpPktCheck => exact congrArg some (sctpPktCheckRule_congr h)
    | sctpPktWalk => exact congrArg some (sctpPktWalkRule_congr h)
    | sctpCsumPatch => exact congrArg some (sctpCsumPatchRule_congr h)
    | sctpChunkNext => exact congrArg some (sctpChunkNextRule_congr h)
    | _ => cases hc

/-! #### The bytes after the same stores -/

theorem byte_write (s : State) (a : Nat) (v : Byte) (x : Nat) :
    ({ s with buf := Memory.write s.buf a v } : State).byte x = if x = a then v else s.byte x := by
  simp only [State.byte, Memory.read_write]
  split_ifs <;> rfl

/-- The same stores on two states leave a byte that read alike reading alike. -/
theorem byte_writeAll_congr {x : Nat} (cs : List Host.Cell) {s s' : State} (h : s'.byte x = s.byte x) :
    ({ s' with buf := Memory.writeAll s'.buf cs } : State).byte x
      = ({ s with buf := Memory.writeAll s.buf cs } : State).byte x := by
  induction cs generalizing s s' with
  | nil => exact h
  | cons c cs ih =>
    refine ih (s := { s with buf := Memory.write s.buf c.1 c.2 })
      (s' := { s' with buf := Memory.write s'.buf c.1 c.2 }) ?_
    rw [byte_write, byte_write, h]

theorem byte_succeed_congr {s s' : State} {x : Nat} (d : Done) (h : s'.byte x = s.byte x) :
    (succeed s' d).byte x = (succeed s d).byte x :=
  byte_writeAll_congr d.stores h

end Sys2Proof.Machine

namespace Sys2Proof.Proofs

open Sys2Proof.Machine Sys2Proof.Spec

/-- Settles O58: both states evaluate one and the same rule, and complete it alike. -/
theorem outcomeDependsOnRegionOnly : Obligations.OutcomeDependsOnRegionOnly := by
  intro i s s' hops hparams hbytes
  have hrule : ruleOf i s'.params s'.ops s'.byte = ruleOf i s.params s.ops s.byte := by
    rw [hops, hparams]
    exact ruleOf_congr i hbytes
  rw [exec_eq i s, exec_eq i s', hrule]
  cases ruleOf i s.params s.ops s.byte with
  | none => exact ⟨_, _, rfl, rfl, rfl, rfl, rfl, rfl, rfl, rfl, rfl, hbytes⟩
  | some r =>
    cases r with
    | error e => exact ⟨_, _, rfl, rfl, rfl, hops, rfl, rfl, rfl, rfl, rfl, hbytes⟩
    | ok d =>
      exact ⟨_, _, rfl, rfl, rfl, hops, rfl, rfl, rfl, rfl, rfl,
        fun a hlo hhi => byte_succeed_congr d (hbytes a hlo hhi)⟩

end Sys2Proof.Proofs

/-! # The host port and the memory map (20_memory.md, with the register map of 10_state.md section 6)

What each access does is said once, as an equation for each kind of access and each group of offsets; the obligations
about the port read off those equations, and the one about an access in flight runs over the whole list of accesses. -/

/-! ### The four accesses as steps (20 R70 to R73) -/

namespace Sys2Proof.Machine

variable {s t : State} {o j : Nat} {v : Word} {b : Byte} {rest : List Turn}

theorem Access.onPort_read32_iff : (Access.read32 o).onPort = true ↔ o % 4 = 0 ∧ o < 0x10000 := by
  simp [Access.onPort]

theorem Access.onPort_write32_iff : (Access.write32 o v).onPort = true ↔ o % 4 = 0 ∧ o < 0x10000 := by
  simp [Access.onPort]

/-- A read delivers the register's value to the host and changes nothing of the block (20 R69, R70). -/
theorem step_of_read32 (h : Spec.nextAccess s (.read32 o) rest) (ho : o % 4 = 0 ∧ o < 0x10000)
    (hv : readReg s o = v) : step s = .next { s with agenda := rest, received := v :: s.received } := by
  rw [step_of_access h, hostAccess_read32 (Access.onPort_read32_iff.2 ho), ← hv]
  rfl

theorem step_of_write32 (h : Spec.nextAccess s (.write32 o v) rest) (ho : o % 4 = 0 ∧ o < 0x10000)
    (ht : writeReg { s with agenda := rest } o v = t) : step s = .next t := by
  rw [step_of_access h, ← ht]
  exact if_neg (by simp [Access.onPort_write32_iff.2 ho])

theorem step_of_read8 (h : Spec.nextAccess s (.read8 (0x10000 + j)) rest) (hv : readWindow s j = v) :
    step s = .next { s with agenda := rest, received := v :: s.received } := by
  rw [step_of_access h, ← hv]
  simp [hostAccess, Access.onPort, receive, readWindow, State.byte]

theorem step_of_write8 (h : Spec.nextAccess s (.write8 (0x10000 + j) b) rest)
    (ht : writeWindow { s with agenda := rest } j b = t) : step s = .next t := by
  rw [step_of_access h, ← ht]
  simp [hostAccess, Access.onPort]

/-! ### Register writes (20 R71, R72) -/

theorem writableReg_iff : writableReg o = true ↔ o ∈ [0x00, 0x10, 0x14, 0x18, 0x1C] := by
  simp [writableReg, or_assoc]

theorem writeReg_of_reserved (s : State) (v : Word) (h : o ∉ [0x00, 0x10, 0x14, 0x18, 0x1C]) : writeReg s o v = s :=
  if_pos (Bool.eq_false_iff.2 (mt writableReg_iff.1 h))

theorem writeReg_busy (v : Word) (hb : s.status.busy = true) (h : o ∈ [0x00, 0x10, 0x14, 0x18, 0x1C]) :
    writeReg s o v = dropWrite s := by
  rw [writeReg, if_neg (by simp [writableReg_iff.2 h]), if_pos hb]

/-- An idle block takes a write to one of its registers: what follows the two guards of `writeReg`. -/
theorem writeReg_idle (v : Word) (hi : s.status.busy = false) (h : o ∈ [0x00, 0x10, 0x14, 0x18, 0x1C]) :
    writeReg s o v =
      if o = 0x00 then accept s v
      else if o = 0x10 then { s with ops := { s.ops with a0 := v } }
      else if o = 0x14 then { s with ops := { s.ops with a1 := v } }
      else if o = 0x18 then { s with ops := { s.ops with a2 := v } }
      else { s with ops := { s.ops with a3 := v } } := by
  rw [writeReg, if_neg (by simp [writableReg_iff.2 h]), if_neg (by simp [hi])]

/-! ### The buffer window (20 R72, R73, 10 R38) -/

theorem readWindow_of_lt (h : j < s.params.bufBytes) : readWindow s j = Spec.reg (s.byte j).toNat :=
  (if_pos h).trans (Spec.byteWord_reg (s.byte j))

theorem readWindow_of_le (h : s.params.bufBytes ≤ j) : readWindow s j = 0#32 :=
  if_neg (Nat.not_lt.2 h)

theorem writeWindow_of_le (b : Byte) (h : s.params.bufBytes ≤ j) : writeWindow s j b = s :=
  if_pos h

theorem writeWindow_busy (b : Byte) (hb : s.status.busy = true) (h : j < s.params.bufBytes) :
    writeWindow s j b = dropWrite s := by
  rw [writeWindow, if_neg (Nat.not_le.2 h), if_pos hb]

theorem writeWindow_idle (b : Byte) (hi : s.status.busy = false) (h : j < s.params.bufBytes) :
    writeWindow s j b = { s with buf := Memory.write s.buf j b } := by
  rw [writeWindow, if_neg (Nat.not_le.2 h), if_neg (by simp [hi])]

/-! ### The register map (10 R29, R36 to R38) -/

theorem Params.bufBytes_le_of_wellFormed {p : Params} (h : p.wellFormed = true) : p.bufBytes ≤ 65536 := by
  simp only [Params.wellFormed, Bool.and_eq_true, decide_eq_true_eq] at h
  obtain ⟨⟨⟨⟨-, hle⟩, -⟩, -⟩, -⟩ := h
  exact hle

/-- `CAP` as a number: a legal `BUF_BYTES` fits its 17 bits (10 R37, 00 R5). -/
theorem capWord_eq_reg {p : Params} (h : p.wellFormed = true) :
    capWord p = Spec.reg (p.bufBytes + if p.icmpErrRegion = 8 then 0x1000000 else 0) := by
  have hle := Params.bufBytes_le_of_wellFormed h
  apply BitVec.eq_of_toNat_eq
  unfold capWord Spec.reg
  simp only [toNat_append, BitVec.toNat_ofBool, BitVec.toNat_ofNat]
  by_cases hregion : p.icmpErrRegion = 8
  · rw [hregion, if_pos rfl, beq_self_eq_true, Bool.toNat_true]
    omega
  · rw [if_neg hregion, beq_false_of_ne hregion, Bool.toNat_false]
    omega

/-- The mapped offsets: the eight registers from 0x00 and the sixteen results from 0x40. -/
theorem exists_mem_registerMap_iff :
    (∃ v, (o, v) ∈ Spec.registerMap s) ↔ o % 4 = 0 ∧ (o < 0x20 ∨ 0x40 ≤ o ∧ o < 0x80) := by
  simp only [Spec.registerMap, List.mem_cons, Prod.mk.injEq, List.not_mem_nil, or_false, exists_or,
    exists_and_left, exists_eq, and_true]
  omega

/-- Every row of the map reads as it says. -/
theorem readReg_of_mem_registerMap (hp : s.params.wellFormed = true) :
    ∀ entry ∈ Spec.registerMap s, readReg s entry.1 = entry.2 := by
  simp only [Spec.registerMap, List.forall_mem_cons]
  exact ⟨rfl, rfl, rfl, capWord_eq_reg hp, rfl, rfl, rfl, rfl, rfl, rfl, rfl, rfl, rfl, rfl, rfl, rfl, rfl, rfl, rfl,
    rfl, rfl, rfl, rfl, rfl, fun _ h => by cases h⟩

/-- Every offset outside the map's two ranges reads 0 (10 R38). -/
theorem readReg_of_reserved (s : State) (h : ¬(o < 0x20 ∨ 0x40 ≤ o ∧ o < 0x80)) : readReg s o = 0#32 := by
  obtain ⟨hlow, hresults⟩ := not_or.1 h
  unfold readReg
  rw [if_neg (by omega), if_neg (by omega), if_neg (by omega), if_neg (by omega), if_neg (by omega),
    if_neg (by omega), if_neg (by omega), if_neg hresults]

end Sys2Proof.Machine

namespace Sys2Proof.Proofs

open Sys2Proof.Machine Sys2Proof.Spec

/-- Settles O15, one clause for each of: a read inside `BUF` and beyond it, a write inside it while idle, a write beyond. -/
theorem windowReadsAndWrites : Obligations.WindowReadsAndWrites := by
  intro s j b rest
  refine ⟨fun h hj => ?_, fun h hj => ?_, fun h hi hj => ?_, fun h hj => ?_⟩
  · exact step_of_read8 h (readWindow_of_lt hj)
  · exact step_of_read8 h (readWindow_of_le hj)
  · have hbyte := byte_write { s with agenda := rest } j b
    exact ⟨_, step_of_write8 h (writeWindow_idle b hi hj), (hbyte j).trans (if_pos rfl),
      fun a ha => (hbyte a).trans (if_neg ha), rfl⟩
  · exact step_of_write8 h (writeWindow_of_le b hj)

/-- Settles O12: the two targets whose writes are dropped, then the two groups of offsets that take no write at all. -/
theorem writesWhileBusy : Obligations.WritesWhileBusy := by
  intro s rest hb
  refine ⟨fun o v h ho => ?_, fun j b h hj => ?_, fun o v h halign hlt ho => ?_, fun j b h hj => ?_⟩
  · have hport : o % 4 = 0 ∧ o < 0x10000 := by
      simp only [List.mem_cons, List.not_mem_nil, or_false] at ho
      omega
    exact step_of_write32 h hport (writeReg_busy v hb ho)
  · exact step_of_write8 h (writeWindow_busy b hb hj)
  · exact step_of_write32 h ⟨halign, hlt⟩ (writeReg_of_reserved _ v ho)
  · exact step_of_write8 h (writeWindow_of_le b hj)

/-- Settles O13, one clause for each register an idle block takes and one for every other offset. -/
theorem registerWritesWhileIdle : Obligations.RegisterWritesWhileIdle := by
  intro s v rest hi
  refine ⟨fun h => ?_, fun h => ?_, fun h => ?_, fun h => ?_, fun h => ?_, fun o h halign hlt ho => ?_⟩
  · exact step_of_write32 h (by decide) (writeReg_idle v hi (by decide))
  · exact step_of_write32 h (by decide) (writeReg_idle v hi (by decide))
  · exact step_of_write32 h (by decide) (writeReg_idle v hi (by decide))
  · exact step_of_write32 h (by decide) (writeReg_idle v hi (by decide))
  · exact ⟨_, step_of_write32 h (by decide) (writeReg_idle v hi (by decide)), rfl, rfl, rfl⟩
  · exact step_of_write32 h ⟨halign, hlt⟩ (writeReg_of_reserved _ v ho)

/-- Settles O14: a row of the map by the map, any other aligned offset by lying outside the map's two ranges. -/
theorem registerReads : Obligations.RegisterReads := by
  intro s o rest hp h
  refine ⟨fun v hv => ?_, fun halign hlt hreserved => ?_⟩
  · obtain ⟨halign, hrange⟩ := exists_mem_registerMap_iff.1 ⟨v, hv⟩
    exact step_of_read32 h ⟨halign, by omega⟩ (readReg_of_mem_registerMap hp _ hv)
  · have hrange : ¬(o < 0x20 ∨ 0x40 ≤ o ∧ o < 0x80) := fun hr =>
      (exists_mem_registerMap_iff.2 ⟨halign, hr⟩).elim hreserved
    exact step_of_read32 h ⟨halign, hlt⟩ (readReg_of_reserved s hrange)

/-- Settles O46: a byte that changes is named by a store of the row's rule, and those lie in the region. -/
theorem storesStayInRegion : Obligations.StoresStayInRegion := by
  intro i s t a hexec hchanged
  obtain ⟨-, rfl⟩ | ⟨d, hd, rfl⟩ | ⟨e, -, rfl⟩ := exec_next_cases hexec
  · exact absurd (byte_softReset s a) hchanged
  · have hstore : ∃ c ∈ d.stores, c.1 = a := by
      by_contra hnone
      exact hchanged (byte_succeed_of_not_mem fun c hc hca => hnone ⟨c, hc, hca⟩)
    obtain ⟨c, hc, rfl⟩ := hstore
    obtain ⟨hlo, hhi, hbuf⟩ := ruleOf_store_mem hd hc
    exact ⟨hlo, hhi, lt_of_lt_of_le hhi hbuf⟩
  · exact absurd (byte_raiseError s e a) hchanged

end Sys2Proof.Proofs

/-! ### Accesses while a command is in flight (20 R69, R72, R80)

On a busy block an access leaves a trace in `OVR` and in what the host has read, and a completion carries that trace
along: the two facts are the halves of a commuting diagram. -/

namespace Sys2Proof.Machine

theorem step_of_nil_busy {s : State} (h : s.agenda = []) (hb : s.status.busy = true) :
    step s = completePending s :=
  (step_of_nil h).trans (blockTurn_busy hb)

theorem step_of_block_busy {s : State} {rest : List Turn} (h : s.agenda = .block :: rest)
    (hb : s.status.busy = true) : step s = completePending { s with agenda := rest } :=
  (step_of_block h).trans (if_pos hb)

/-- `s` with the trace that host accesses can leave on a busy block (20 R69, R72): see `hostAccess_busy`. -/
def State.withHostTrace (s : State) (ovr : Bool) (received : List Word) : State :=
  { s with status := { s.status with ovr := ovr }, received := received }

/-- The accesses before a busy block's turn leave no more than a trace. -/
theorem runSteps_accesses_busy {accesses : List Access} {rest : List Turn} (k : Nat)
    (hport : ∀ a ∈ accesses, a.onPort = true) {s : State} (hb : s.status.busy = true)
    (h : s.agenda = accesses.map Turn.access ++ rest) :
    ∃ ovr received, Spec.runSteps (accesses.length + k) s
      = Spec.runSteps k (State.withHostTrace { s with agenda := rest } ovr received) := by
  induction accesses generalizing s with
  | nil =>
    refine ⟨s.status.ovr, s.received, ?_⟩
    have hs : State.withHostTrace { s with agenda := rest } s.status.ovr s.received = s := by
      rw [← show s.agenda = rest from h]
      rfl
    rw [hs, List.length_nil, Nat.zero_add]
  | cons a accesses ih =>
    obtain ⟨ha, hport⟩ := List.forall_mem_cons.1 hport
    obtain ⟨ovr, received, haccess⟩ :=
      hostAccess_busy (s := { s with agenda := accesses.map Turn.access ++ rest }) ha hb
    have hstep := (step_of_access h).trans haccess
    rw [List.length_cons, Nat.succ_add, Spec.runSteps_succ hstep]
    exact ih hport hb rfl

/-- A row completes alike whatever trace the host has left: `SRST` clears `OVR`, every other row keeps it. -/
theorem exec_withHostTrace (i : Instr) (s : State) (ovr : Bool) (received : List Word) :
    ∃ t ovr', exec i s = .next t ∧ exec i (s.withHostTrace ovr received) = .next (t.withHostTrace ovr' received)
      ∧ t.agenda = s.agenda := by
  have hrule : ruleOf i (s.withHostTrace ovr received).params (s.withHostTrace ovr received).ops
      (s.withHostTrace ovr received).byte = ruleOf i s.params s.ops s.byte := rfl
  rw [exec_eq i s, exec_eq i (s.withHostTrace ovr received), hrule]
  cases ruleOf i s.params s.ops s.byte with
  | none => exact ⟨softReset s, false, rfl, rfl, rfl⟩
  | some r =>
    cases r with
    | ok d => exact ⟨succeed s d, ovr, rfl, rfl, rfl⟩
    | error e => exact ⟨raiseError s e, ovr, rfl, rfl, rfl⟩

theorem completePending_withHostTrace (s : State) (ovr : Bool) (received : List Word) :
    ∃ t ovr', completePending s = .next t
      ∧ completePending (s.withHostTrace ovr received) = .next (t.withHostTrace ovr' received)
      ∧ t.agenda = s.agenda := by
  unfold completePending
  have hfetch : fetchCommand (s.withHostTrace ovr received) = fetchCommand s := rfl
  rw [hfetch]
  cases decodeCommand (fetchCommand s) with
  | ok i => exact exec_withHostTrace i s ovr received
  | error r => exact ⟨raiseError s .illegalCommand, ovr, rfl, rfl, rfl⟩

end Sys2Proof.Machine

namespace Sys2Proof.Proofs

open Sys2Proof.Machine Sys2Proof.Spec

/-- Settles O59: run the accesses to their trace, then complete with it and without it. -/
theorem hostAccessesDoNotDisturbCommand : Obligations.HostAccessesDoNotDisturbCommand := by
  intro s accesses hb hport hagenda
  obtain ⟨ovr, received, hrun⟩ := runSteps_accesses_busy 1 hport hb hagenda
  obtain ⟨t, ovr', hnow, hlater, hempty⟩ := completePending_withHostTrace { s with agenda := [] } ovr received
  have hstep :=
    (step_of_block_busy (s := State.withHostTrace { s with agenda := [.block] } ovr received) rfl hb).trans hlater
  have hatOnce := (step_of_nil_busy (s := { s with agenda := [] }) rfl hb).trans hnow
  exact ⟨t.withHostTrace ovr' received, t, hrun.trans (runSteps_succ hstep), hatOnce, rfl, rfl, rfl, rfl, hempty, rfl⟩

end Sys2Proof.Proofs

/-! # Encodings and dispatch (30_encoding.md)

Decoding and encoding are inverse to each other: every row of a table that the decoder looks into carries its own
encoding, and what the decoder answers is the row it found. The two dispatch tables are looked up by a key without
duplicates, so a lookup answers the row that has the key. -/

/-! ### Decoding and encoding are inverse (30 R91, R112, R118) -/

namespace Sys2Proof

/-- The law of `EncodeDecodes` over all 44 rows: each is evaluated at its constructor. -/
theorem encodeDecodes (i : Instr) : Laws.EncodeDecodes.Statement i := by
  cases i <;> exact ⟨rfl, rfl⟩

theorem decode_encode (i : Instr) : decode (encode i) = .ok i :=
  (encodeDecodes i).1

/-- A command has the word of its encoding (30 R130). -/
theorem commandWord_eq_some_iff {i : Instr} {v : Word} : commandWord i = some v ↔ encode i = .cmd32 v := by
  unfold commandWord
  cases encode i <;> simp

/-- Every command row matches all 32 bits, against the word of its own row (30 R91). -/
theorem commandRows_match :
    ∀ r ∈ commandRows, r.mask = BitVec.allOnes 32 ∧ encode r.instr = .cmd32 r.bits := by
  decide

theorem icmpRows_encode :
    ∀ r ∈ Machine.defaultIcmpTypes, (icmpRowInstr r.kind r.reply).map encode = some (.icmpType8 r.tag) := by
  decide

theorem chunkRows_encode :
    ∀ r ∈ Machine.defaultChunkTypes, encode (chunkRowInstr r.kind) = .sctpChunkType8 r.type := by
  decide

/-- What a word decodes to is a row of the command set whose bits are the whole word. -/
theorem decodeCommand_ok {v : Word} {i : Instr} (h : decodeCommand v = .ok i) :
    ∃ r ∈ commandRows, r.bits = v ∧ r.instr = i := by
  unfold decodeCommand at h
  split at h
  next r hfind =>
    have hr := List.mem_of_find?_eq_some hfind
    have hmatch := List.find?_some hfind
    rw [(commandRows_match r hr).1, BitVec.and_allOnes, beq_iff_eq] at hmatch
    cases h
    exact ⟨r, hr, hmatch.symm, rfl⟩
  next =>
    split at h <;> cases h

theorem decodeIcmpType_ok {t : Byte} {i : Instr} (h : decodeIcmpType t = .ok i) :
    ∃ r ∈ Machine.defaultIcmpTypes, r.tag = t ∧ icmpRowInstr r.kind r.reply = some i := by
  unfold decodeIcmpType at h
  split at h
  next r hfind =>
    have hmatch := List.find?_some hfind
    split at h
    next j hrow =>
      cases h
      exact ⟨r, List.mem_of_find?_eq_some hfind, beq_iff_eq.1 hmatch, hrow⟩
    next => cases h
  next => cases h

theorem decodeChunkType_ok {t : Byte} {i : Instr} (h : decodeChunkType t = .ok i) :
    ∃ r ∈ Machine.defaultChunkTypes, r.type = t ∧ chunkRowInstr r.kind = i := by
  unfold decodeChunkType at h
  split at h
  next k hkind =>
    obtain ⟨r, hfind, rfl⟩ := Option.map_eq_some_iff.1 hkind
    have hmatch := List.find?_some hfind
    cases h
    exact ⟨r, List.mem_of_find?_eq_some hfind, beq_iff_eq.1 hmatch, rfl⟩
  next => cases h

/-- A code decodes to a row exactly when it is the row's encoding, in each of the three formats. -/
theorem decode_eq_ok_iff {c : Code} {i : Instr} : decode c = .ok i ↔ c = encode i := by
  refine ⟨fun h => ?_, fun h => h ▸ decode_encode i⟩
  cases c with
  | cmd32 v =>
    obtain ⟨r, hr, rfl, rfl⟩ := decodeCommand_ok h
    exact (commandRows_match r hr).2.symm
  | icmpType8 t =>
    obtain ⟨r, hr, rfl, hrow⟩ := decodeIcmpType_ok h
    have hencode := icmpRows_encode r hr
    rw [hrow] at hencode
    exact (Option.some.inj hencode).symm
  | sctpChunkType8 t =>
    obtain ⟨r, hr, rfl, rfl⟩ := decodeChunkType_ok h
    exact (chunkRows_encode r hr).symm

theorem decodeCommand_of_commandWord {i : Instr} {v : Word} (h : commandWord i = some v) :
    decodeCommand v = .ok i :=
  decode_eq_ok_iff.2 (commandWord_eq_some_iff.1 h).symm

/-- A command's word, read as a 32-bit word of the opcode table, is that command. -/
theorem decodeTableWord_of_commandWord {i : Instr} {v : Word} (h : commandWord i = some v) :
    decodeTableWord 32 v.toNat = some i := by
  have hdecode : decode (.cmd32 (BitVec.ofNat 32 v.toNat)) = .ok i := by
    rw [BitVec.ofNat_toNat, BitVec.setWidth_eq]
    exact decodeCommand_of_commandWord h
  rw [decodeTableWord, if_neg (by decide), if_pos (by decide), hdecode]
  rfl

/-- The opcodes that 30 R92 lists are those of the command rows. -/
theorem opcodes_eq : Spec.opcodes = commandRows.map fun r => r.bits.toNat := by
  decide

end Sys2Proof

namespace Sys2Proof.Proofs

open Sys2Proof.Machine Sys2Proof.Spec

/-- Settles O1, from the round trip of each row; a command is a row that has a word. -/
theorem everyRowDecodesFromItsEncoding : Obligations.EveryRowDecodesFromItsEncoding := by
  intro i
  refine ⟨decode_encode i, fun hcommand => ?_⟩
  have hword : (commandWord i).isSome := (encodeDecodes i).2.trans hcommand
  obtain ⟨v, hv⟩ := Option.isSome_iff_exists.1 hword
  exact ⟨v, hv, decodeTableWord_of_commandWord hv⟩

/-- Settles O2: the row that the decoder found in a table holds the code it was asked about. -/
theorem decodingIsInjective : Obligations.DecodingIsInjective :=
  fun _ _ h => decode_eq_ok_iff.1 h

/-- Settles O3: a word that decodes is the bits of a command row, and the bits of a row decode to its command. -/
theorem legalCommandWords : Obligations.LegalCommandWords := by
  intro v
  rw [opcodes_eq, List.mem_map]
  constructor
  · rintro ⟨i, hi⟩
    obtain ⟨r, hr, hbits, -⟩ := decodeCommand_ok hi
    exact ⟨r, hr, congrArg BitVec.toNat hbits⟩
  · rintro ⟨r, hr, hbits⟩
    obtain rfl := BitVec.eq_of_toNat_eq hbits
    exact ⟨r.instr, decode_eq_ok_iff.2 (commandRows_match r hr).2.symm⟩

/-- Settles O4: the five words are those of their commands, the two refused ones have upper bits set. -/
theorem sampleWordsDecode : Obligations.SampleWordsDecode :=
  ⟨decodeTableWord_of_commandWord (i := .oc16Gen) rfl, decodeTableWord_of_commandWord (i := .ip4CsumPatch) rfl,
    decodeTableWord_of_commandWord (i := .sctpPktWalk) rfl, decodeTableWord_of_commandWord (i := .sctpChunkFrame) rfl,
    decodeTableWord_of_commandWord (i := .srst) rfl, by decide, by decide,
    decode_encode .icmpTypeTimestamp, decode_encode .chunkTypeShutdownComplete⟩

end Sys2Proof.Proofs

/-! ### The dispatch tables (30 R112, R118, 00 R5) -/

namespace Sys2Proof.Machine

/-- In a list without two entries of one key, a lookup by key answers the entry that has it. -/
theorem find?_key_eq_some_iff {α β : Type} [BEq β] [LawfulBEq β] {key : α → β} {l : List α} {b : β} {x : α}
    (h : (l.map key).Nodup) : l.find? (fun y => key y == b) = some x ↔ x ∈ l ∧ key x = b := by
  constructor
  · intro hfind
    exact ⟨List.mem_of_find?_eq_some hfind, beq_iff_eq.1 (List.find?_some (p := fun y => key y == b) hfind)⟩
  · rintro ⟨hx, hkey⟩
    obtain ⟨y, hy⟩ := Option.isSome_iff_exists.1
      (List.find?_isSome (p := fun y => key y == b).2 ⟨x, hx, beq_iff_eq.2 hkey⟩)
    have hykey : key y = b := beq_iff_eq.1 (List.find?_some (p := fun y => key y == b) hy)
    rw [hy, List.inj_on_of_nodup_map h (List.mem_of_find?_eq_some hy) hx (hykey.trans hkey.symm)]

theorem icmpRowOf_eq_some_iff {tbl : List IcmpRow} {t : Byte} {row : IcmpRow} (h : (tbl.map (·.tag)).Nodup) :
    icmpRowOf tbl t = some row ↔ row ∈ tbl ∧ row.tag = t :=
  find?_key_eq_some_iff h

theorem icmpRowOf_eq_none_iff {tbl : List IcmpRow} {t : Byte} :
    icmpRowOf tbl t = none ↔ ∀ row ∈ tbl, row.tag ≠ t := by
  simp [icmpRowOf]

theorem chunkKindOf_eq_some_iff {tbl : List ChunkRow} {t : Byte} {kind : ChunkKind}
    (h : (tbl.map (·.type)).Nodup) :
    chunkKindOf tbl t = some kind ↔ ∃ row ∈ tbl, row.type = t ∧ row.kind = kind := by
  simp only [chunkKindOf, Option.map_eq_some_iff, find?_key_eq_some_iff h, and_assoc]

theorem chunkKindOf_eq_none_iff {tbl : List ChunkRow} {t : Byte} :
    chunkKindOf tbl t = none ↔ ∀ row ∈ tbl, row.type ≠ t := by
  simp [chunkKindOf]

theorem lenRuleOk_iff (rule : LenRule) (L : Nat) : lenRuleOk rule L = true ↔ Spec.ruleAllows rule L := by
  cases rule <;> simp [lenRuleOk, Spec.ruleAllows]

/-- In a table without two rows of one kind, `ChunkLenOK` of a row's kind is the row's own length rule. -/
theorem chunkLenOk_iff {tbl : List ChunkRow} {row : ChunkRow} {L : Nat} (h : (tbl.map (·.kind)).Nodup)
    (hrow : row ∈ tbl) : chunkLenOk tbl row.kind L = true ↔ Spec.ruleAllows row.rule L := by
  rw [chunkLenOk, (find?_key_eq_some_iff h).2 ⟨hrow, rfl⟩]
  exact lenRuleOk_iff row.rule L

/-- The smallest and the largest 16-bit length that a rule allows. -/
def lenRuleRange : LenRule → Nat × Nat
  | .atLeast n => (n, 65535)
  | .moreThan n => (n + 1, 65535)
  | .exactly n => (n, n)

theorem ruleAllows_iff_range {rule : LenRule} {L : Nat} (hL : L ≤ 65535) :
    Spec.ruleAllows rule L ↔ (lenRuleRange rule).1 ≤ L ∧ L ≤ (lenRuleRange rule).2 := by
  cases rule <;> simp only [Spec.ruleAllows, lenRuleRange] <;> omega

/-- The default table is the one that 30 R112 prints. -/
theorem defaultIcmpTypes_eq : defaultIcmpTypes = Spec.icmpRows.map fun r => ⟨r.2.1, r.2.2.1, r.2.2.2⟩ := rfl

/-- The default table is the one that 30 R118 prints. -/
theorem chunkRows_eq :
    Spec.chunkRows = defaultChunkTypes.map fun r =>
      (chunkRowInstr r.kind, r.type, r.kind, chunkKindNumber r.kind, lenRuleRange r.rule) := rfl

theorem defaultIcmpTypes_nodup : (defaultIcmpTypes.map (·.tag)).Nodup := by decide

theorem defaultChunkTypes_nodup_type : (defaultChunkTypes.map (·.type)).Nodup := by decide

theorem defaultChunkTypes_nodup_kind : (defaultChunkTypes.map (·.kind)).Nodup := by decide

/-- Every printed ICMP row stands under its constructor's own tag. -/
theorem encode_of_mem_icmpRows : ∀ r ∈ Spec.icmpRows, encode r.1 = .icmpType8 r.2.1 := by decide

/-- A printed chunk row is a row of the default table, with the columns the model computes from it. -/
theorem mem_chunkRows_iff {i : Instr} {t : Byte} {kind : ChunkKind} {number lo hi : Nat} :
    (i, t, kind, number, lo, hi) ∈ Spec.chunkRows ↔
      ∃ row ∈ defaultChunkTypes, chunkRowInstr row.kind = i ∧ row.type = t ∧ row.kind = kind
        ∧ chunkKindNumber row.kind = number ∧ lenRuleRange row.rule = (lo, hi) := by
  simp only [chunkRows_eq, List.mem_map, Prod.ext_iff]

end Sys2Proof.Machine

namespace Sys2Proof.Proofs

open Sys2Proof.Machine Sys2Proof.Spec

/-- Settles O41: the default table is looked up like any other, and its rows are the printed ones. -/
theorem defaultIcmpTable : Obligations.DefaultIcmpTable := by
  refine ⟨fun tbl t h => ⟨fun row => icmpRowOf_eq_some_iff h, icmpRowOf_eq_none_iff⟩, fun t => ⟨?_, ?_⟩⟩
  · intro i kind reply hrow
    refine ⟨(icmpRowOf_eq_some_iff defaultIcmpTypes_nodup).2 ⟨?_, rfl⟩, ?_⟩
    · rw [defaultIcmpTypes_eq]
      exact List.mem_map_of_mem hrow
    · exact decode_eq_ok_iff.2 (encode_of_mem_icmpRows _ hrow).symm
  · intro habsent
    rw [icmpRowOf_eq_none_iff, defaultIcmpTypes_eq]
    exact List.forall_mem_map.2 habsent

/-- Settles O42: as for the ICMP table, and the length rule of a default row is a range of 16-bit lengths. -/
theorem defaultChunkTable : Obligations.DefaultChunkTable := by
  refine ⟨fun tbl t h => ⟨fun kind => chunkKindOf_eq_some_iff h, chunkKindOf_eq_none_iff⟩,
    fun tbl row L h hrow => chunkLenOk_iff h hrow, fun t => ⟨?_, ?_⟩⟩
  · intro i kind number lo hi hprinted
    obtain ⟨row, hrow, rfl, rfl, rfl, rfl, hrange⟩ := mem_chunkRows_iff.1 hprinted
    refine ⟨(chunkKindOf_eq_some_iff defaultChunkTypes_nodup_type).2 ⟨row, hrow, rfl, rfl⟩,
      decode_eq_ok_iff.2 (chunkRows_encode row hrow).symm, rfl, fun L hL => ?_⟩
    rw [chunkLenOk_iff defaultChunkTypes_nodup_kind hrow, ruleAllows_iff_range hL, hrange]
  · intro habsent
    rw [chunkKindOf_eq_none_iff]
    rw [chunkRows_eq] at habsent
    exact fun row hrow => habsent _ (List.mem_map_of_mem hrow)

end Sys2Proof.Proofs

/-! # The type-tag rows (30_encoding.md R135, log 1)

A rule follows a list of checks when it ends in the error of the first one that fails, and in its result when none does.
A rule is built from its checks one by one, so that it follows its list is shown the same way; the completion then gives
the state the statements ask for. -/

/-! ### A rule that follows its list of checks (60 R340, R345) -/

namespace Sys2Proof.Machine

open Sys2Proof.Spec

/-- `r` ends in the error of the first of `checks` that fails, by its kind and code, and in `a` when all pass. -/
structure Follows {α : Type} (r : Except CmdError α) (checks : List Check) (a : α) : Prop where
  ok : firstFailure checks = none → r = .ok a
  error : ∀ k c, firstFailure checks = some (k, c) →
    ∃ e, r = .error e ∧ kindNumber (errorKind e) = BitVec.ofNat 3 k ∧ errorCode e = BitVec.ofNat 8 c

section
variable {α β : Type} {r : Except CmdError α} {checks checks' : List Check} {a : α} {b : β} {failed : Bool} {k c : Nat}

theorem firstFailure_cons_true (h : failed = true) : firstFailure ((failed, k, c) :: checks) = some (k, c) := by
  rw [firstFailure, if_pos h]

theorem firstFailure_cons_false (h : ¬failed = true) : firstFailure ((failed, k, c) :: checks) = firstFailure checks := by
  rw [firstFailure, if_neg h]

theorem firstFailure_append_of_none (h : firstFailure checks = none) :
    firstFailure (checks ++ checks') = firstFailure checks' := by
  induction checks with
  | nil => rfl
  | cons check checks ih =>
    obtain ⟨failed, k, c⟩ := check
    by_cases hf : failed = true
    · rw [firstFailure_cons_true hf] at h; cases h
    · rw [firstFailure_cons_false hf] at h
      rw [List.cons_append, firstFailure_cons_false hf, ih h]

theorem firstFailure_append_of_some {kc : Nat × Nat} (h : firstFailure checks = some kc) :
    firstFailure (checks ++ checks') = some kc := by
  induction checks with
  | nil => cases h
  | cons check checks ih =>
    obtain ⟨failed, k, c⟩ := check
    by_cases hf : failed = true
    · rw [firstFailure_cons_true hf] at h
      rw [List.cons_append, firstFailure_cons_true hf, h]
    · rw [firstFailure_cons_false hf] at h
      rw [List.cons_append, firstFailure_cons_false hf, ih h]

/-- With no check left the rule has its result. -/
theorem Follows.nil (h : r = .ok a) : Follows r [] a where
  ok _ := h
  error _ _ h := by cases h

/-- One more check in front: where it fails the rule is its error, and else the rest follows the rest. -/
theorem Follows.cons (e : CmdError) (hk : kindNumber (errorKind e) = BitVec.ofNat 3 k)
    (hc : errorCode e = BitVec.ofNat 8 c) (hfails : failed = true → r = .error e)
    (hpasses : ¬failed = true → Follows r checks a) : Follows r ((failed, k, c) :: checks) a := by
  by_cases hf : failed = true
  · refine ⟨fun h => ?_, fun k' c' h => ⟨e, hfails hf, ?_⟩⟩
    · rw [firstFailure_cons_true hf] at h; cases h
    · rw [firstFailure_cons_true hf] at h; cases h; exact ⟨hk, hc⟩
  · obtain ⟨hok, herror⟩ := hpasses hf
    rw [← firstFailure_cons_false (k := k) (c := c) hf] at hok
    exact ⟨hok, fun k' c' h => herror k' c' (firstFailure_cons_false hf ▸ h)⟩

/-- A guard of a rule, written as a conditional, is a check in front. -/
theorem Follows.ite {p : Prop} [Decidable p] (e : CmdError) (hf : failed = true ↔ p)
    (hk : kindNumber (errorKind e) = BitVec.ofNat 3 k) (hc : errorCode e = BitVec.ofNat 8 c)
    (h : ¬p → Follows r checks a) : Follows (if p then .error e else r) ((failed, k, c) :: checks) a :=
  .cons e hk hc (fun hp => if_pos (hf.1 hp)) fun hp => by
    rw [if_neg (mt hf.2 hp)]
    exact h (mt hf.2 hp)

/-- The checks of one part of a rule, then those of what is done with its result. -/
theorem Follows.bind {f : α → Except CmdError β} (h : Follows r checks a)
    (hf : r = .ok a → Follows (f a) checks' b) : Follows (r.bind f) (checks ++ checks') b := by
  cases hc : firstFailure checks with
  | none =>
    have hr := h.ok hc
    obtain ⟨hok, herror⟩ := hf hr
    have hbind : r.bind f = f a := congrArg (·.bind f) hr
    rw [← firstFailure_append_of_none hc (checks' := checks')] at hok
    rw [hbind]
    exact ⟨hok, fun k c hk => herror k c (firstFailure_append_of_none hc ▸ hk)⟩
  | some kc =>
    have happend := firstFailure_append_of_some hc (checks' := checks')
    refine ⟨fun h' => ?_, fun k c h' => ?_⟩
    · rw [happend] at h'; cases h'
    · obtain ⟨e, hr, he⟩ := h.error k c (hc.trans (happend.symm.trans h'))
      exact ⟨e, congrArg (·.bind f) hr, he⟩

end

/-- The range check stands in front of every rule with a region (20 R66). -/
theorem Follows.guardRegion {s : State} {r : Rule} {checks : List Check} {d : Done} (h : Follows r checks d) :
    Follows (guardRegion s.params s.ops r) (rangeCheck s :: checks) d := by
  refine .cons .operandRange rfl rfl (fun hf => guardRegion_of_gt (decide_eq_true_iff.1 hf) r) fun hf => ?_
  rw [guardRegion_of_le (Nat.not_lt.1 (mt decide_eq_true_iff.2 hf))]
  exact h

theorem raiseError_eq_errState {s : State} {e : CmdError} {k c : Nat}
    (hk : kindNumber (errorKind e) = BitVec.ofNat 3 k) (hc : errorCode e = BitVec.ofNat 8 c) :
    raiseError s e = errState s k c := by
  rw [raiseError, Status.failed, hk, hc, errState]

/-- The completion of a rule that follows its checks: the result's state, or that of the first failing check. -/
theorem complete_of_follows {s : State} {r : Rule} {checks : List Check} {d : Done} (h : Follows r checks d) :
    (firstFailure checks = none → complete s r = .next (okState s d.regs d.stores))
      ∧ ∀ k c, firstFailure checks = some (k, c) → complete s r = .next (errState s k c) := by
  refine ⟨fun hnone => ?_, fun k c hsome => ?_⟩
  · rw [h.ok hnone, complete_ok]
    rfl
  · obtain ⟨e, rfl, hk, hc⟩ := h.error k c hsome
    rw [complete_error, raiseError_eq_errState hk hc]

end Sys2Proof.Machine

/-! ### The rows of the ICMP table (30 R112, 43 R211, R212, R216) -/

namespace Sys2Proof.Machine

open Sys2Proof.Spec

theorem origNibble_toNat (s : State) :
    ((s.byte (base s + icmpOrigOffset s.params)).extractLsb' 0 4).toNat = origIhl s :=
  low_nibble_toNat _

theorem icmpOrigHdrLen_eq (s : State) : icmpOrigHdrLen s.params s.byte (base s) = 4 * origIhl s := by
  rw [icmpOrigHdrLen, origNibble_toNat, Nat.mul_comm]

/-- Step 3 of 43 R212: an error report has a fixed part, then the embedded header it locates (43 R211). -/
theorem icmpLength_follows (s : State) (kind : IcmpKind) :
    Follows (icmpLength s.params s.byte kind (base s) (len s)) (lengthChecks s kind) (messageLength s kind) := by
  cases kind with
  | echo | timestamp | information => exact .ite _ decide_eq_true_iff rfl rfl fun _ => .nil rfl
  | destUnreachable | sourceQuench | redirect | timeExceeded | parameterProblem =>
    simp only [icmpLength, icmpOrigHdrLen_eq, origNibble_toNat]
    exact .ite _ decide_eq_true_iff rfl rfl fun _ => .ite _ decide_eq_true_iff rfl rfl fun _ =>
      .ite _ decide_eq_true_iff rfl rfl fun _ => .nil rfl

theorem icmpCheck_eq_bind (p : Params) (rd : Nat → Byte) (kind : IcmpKind) (b n : Nat) :
    icmpCheck p rd kind b n = (icmpLength p rd kind b n).bind fun mlen =>
      if mlen % 2 = 1 then .error .oddLength
      else if (memRead2 rd (b + 2)).toNat ≠ ocGenZ rd b mlen 2 then .error .messageChecksumInvalid
      else .ok mlen := by
  unfold icmpCheck
  cases icmpLength p rd kind b n <;> rfl

/-- Steps 3 to 5 of 43 R212: a message has room for the checksum word, which its length rule has seen to. -/
theorem icmpCheck_follows (s : State) (kind : IcmpKind) :
    Follows (icmpCheck s.params s.byte kind (base s) (len s)) (lengthChecks s kind ++ messageChecks s kind)
      (messageLength s kind) := by
  rw [icmpCheck_eq_bind]
  refine (icmpLength_follows s kind).bind fun hlength => ?_
  have hroom := (icmpLength_le hlength).2
  rw [memRead2_be2, ocGenZ_eq (by decide) (by omega)]
  exact .ite _ beq_iff_eq rfl rfl fun _ => .ite _ bne_iff_ne rfl rfl fun _ => .nil rfl

/-- The columns of 43 R216, at the message length that the checks have established. -/
theorem icmpRegs_eq_columns (s : State) (kind : IcmpKind) (reply : Bool) :
    icmpRegs s.params s.byte kind reply (base s) (messageLength s kind)
      = icmpColumns s kind (if reply then 1 else 0) := by
  have hreply : flagWord reply = reg (if reply then 1 else 0) := by cases reply <;> rfl
  cases kind <;>
    simp only [icmpRegs, icmpColumns, messageLength, byteWord_reg, halfWord_reg, memRead4_reg, toWord_reg, hreply,
      icmpOrigHdrLen_eq] <;>
    rfl

theorem icmpDispatched_eq_bind (p : Params) (o : Operands) (rd : Nat → Byte) (kind : IcmpKind) (reply : Bool) :
    icmpDispatched p o rd kind reply = (icmpCheck p rd kind o.base o.len).bind fun mlen =>
      .ok { regs := icmpRegs p rd kind reply o.base mlen } := by
  unfold icmpDispatched
  cases icmpCheck p rd kind o.base o.len <;> rfl

/-- What `ICMP.PARSE` does after its dispatch (43 R212 steps 3 to 6). -/
theorem icmpDispatched_follows (s : State) (kind : IcmpKind) (reply : Bool) :
    Follows (icmpDispatched s.params s.ops s.byte kind reply) (lengthChecks s kind ++ messageChecks s kind)
      { regs := icmpColumns s kind (if reply then 1 else 0) } := by
  rw [icmpDispatched_eq_bind, ← List.append_nil (_ ++ _)]
  refine (icmpCheck_follows s kind).bind fun _ => .nil ?_
  rw [← icmpRegs_eq_columns]
  rfl

/-- The range check and step 1 of 43 R212 stand in front. -/
theorem Follows.icmpPrefix {s : State} {r : Rule} {checks : List Check} {d : Done} (h : Follows r checks d) :
    Follows (icmpPrefix s.params s.ops r) (icmpFirstChecks s ++ checks) d :=
  .guardRegion (.ite _ decide_eq_true_iff rfl rfl fun _ => h)

theorem icmpRowRule_follows (s : State) (kind : IcmpKind) (reply : Bool) :
    Follows (icmpRowRule kind reply s.params s.ops s.byte) (icmpKindChecks s kind)
      { regs := icmpColumns s kind (if reply then 1 else 0) } := by
  rw [icmpKindChecks, List.append_assoc]
  exact (icmpDispatched_follows s kind reply).icmpPrefix

theorem exec_of_icmpRowInstr {kind : IcmpKind} {reply : Bool} {i : Instr} (h : icmpRowInstr kind reply = some i)
    (s : State) : exec i s = complete s (icmpRowRule kind reply s.params s.ops s.byte) := by
  cases kind <;> cases reply <;> cases h <;> rfl

/-- The row of an ICMP kind and `reply` column completes with the kind's columns or the first failing check. -/
theorem exec_icmpRow {kind : IcmpKind} {reply : Bool} {i : Instr} (h : icmpRowInstr kind reply = some i) (s : State) :
    (firstFailure (icmpKindChecks s kind) = none →
      exec i s = .next (okState s (icmpColumns s kind (if reply then 1 else 0)) []))
    ∧ ∀ k c, firstFailure (icmpKindChecks s kind) = some (k, c) → exec i s = .next (errState s k c) := by
  rw [exec_of_icmpRowInstr h]
  exact complete_of_follows (icmpRowRule_follows s kind reply)

end Sys2Proof.Machine

namespace Sys2Proof.Proofs

open Sys2Proof.Machine Sys2Proof.Spec

/-- Settles O31: the two rows of the echo kind. -/
theorem echoRowsResult : Obligations.EchoRowsResult := by
  intro s
  obtain ⟨hok, herror⟩ := exec_icmpRow (kind := .echo) (reply := false) rfl s
  obtain ⟨hokReply, herrorReply⟩ := exec_icmpRow (kind := .echo) (reply := true) rfl s
  exact ⟨fun h => ⟨hok h, hokReply h⟩, fun k c h => ⟨herror k c h, herrorReply k c h⟩⟩

/-- Settles O32: each of the five rows is the one of its kind, and no error report is a reply. -/
theorem errorReportRowsResult : Obligations.ErrorReportRowsResult := by
  intro s i kind hrow
  have hinstr : icmpRowInstr kind false = some i := by
    simp only [List.mem_cons, Prod.mk.injEq, List.not_mem_nil, or_false] at hrow
    obtain ⟨rfl, rfl⟩ | ⟨rfl, rfl⟩ | ⟨rfl, rfl⟩ | ⟨rfl, rfl⟩ | ⟨rfl, rfl⟩ := hrow <;> rfl
  exact exec_icmpRow hinstr s

/-- Settles O33: the two rows of each of the two kinds. -/
theorem fixedLengthRowsResult : Obligations.FixedLengthRowsResult := by
  intro s
  obtain ⟨hstamp, hstampErr⟩ := exec_icmpRow (kind := .timestamp) (reply := false) rfl s
  obtain ⟨hstampReply, hstampReplyErr⟩ := exec_icmpRow (kind := .timestamp) (reply := true) rfl s
  obtain ⟨hinfo, hinfoErr⟩ := exec_icmpRow (kind := .information) (reply := false) rfl s
  obtain ⟨hinfoReply, hinfoReplyErr⟩ := exec_icmpRow (kind := .information) (reply := true) rfl s
  exact ⟨fun h => ⟨hstamp h, hstampReply h⟩, fun k c h => ⟨hstampErr k c h, hstampReplyErr k c h⟩,
    fun h => ⟨hinfo h, hinfoReply h⟩, fun k c h => ⟨hinfoErr k c h, hinfoReplyErr k c h⟩⟩

end Sys2Proof.Proofs

/-! ### The rows of the chunk table (30 R118, 45 R281, R288) -/

namespace Sys2Proof.Machine

open Sys2Proof.Spec

/-- The framing of the chunk at the base of the region, as one of kind `kind` (45 R281 step 5). -/
def State.chunkOf (s : State) (kind : ChunkKind) : Chunk :=
  { type := s.byte (base s), flags := s.byte (base s + 1), length := be2 s.byte (base s + 2), kind := kind }

/-- Steps 3 and 4 of 45 R281. -/
theorem chunkDispatched_follows (s : State) (kind : ChunkKind) :
    Follows (chunkDispatched s.params s.byte kind (base s) (len s))
      [(decide (be2 s.byte (base s + 2) < 4) || !chunkLenOk s.params.chunkTypes kind (be2 s.byte (base s + 2)), 2, 0x42),
       (decide (len s < roundUp (be2 s.byte (base s + 2))), 2, 0x43)]
      (s.chunkOf kind) := by
  unfold chunkDispatched
  simp only [memRead2_be2, ← roundUp_eq]
  exact .ite _ (by simp) rfl rfl fun _ => .ite _ decide_eq_true_iff rfl rfl fun _ => .nil rfl

/-- The layout of 45 R288. -/
theorem chunkRegs_eq_columns (cur rem : Nat) {c : Chunk} (h : chunkWireLen c ≤ rem) :
    chunkRegs cur rem c = chunkColumns cur rem c.type.toNat c.flags.toNat c.length (chunkKindNumber c.kind) := by
  have hwire : chunkWireLen c = roundUp c.length := (roundUp_eq c.length).symm
  have hlast : flagWord (rem - roundUp c.length == 0) = if rem = roundUp c.length then 1#32 else 0#32 := by
    have hiff : (rem - roundUp c.length == 0) = true ↔ rem = roundUp c.length := by
      rw [beq_iff_eq]
      omega
    exact if_congr hiff rfl rfl
  rw [chunkRegs, chunkColumns, hwire, hlast, ← roundUp_sub, byteWord_reg, byteWord_reg]
  rfl

theorem chunkRowRule_eq_bind (kind : ChunkKind) (p : Params) (o : Operands) (rd : Nat → Byte) :
    chunkRowRule kind p o rd = guardRegion p o
      (if o.len < 4 then .error .chunkHeaderTruncated
       else (chunkDispatched p rd kind o.base o.len).bind fun c => .ok { regs := chunkRegs o.base o.len c }) := by
  unfold chunkRowRule
  cases chunkDispatched p rd kind o.base o.len <;> rfl

/-- The checks of a chunk row: those of 45 R281 with the kind given by the row in place of the dispatch. -/
def chunkRowChecks (s : State) (kind : ChunkKind) : List Check :=
  [rangeCheck s, (decide (len s < 4), 2, 0x41),
   (decide (be2 s.byte (base s + 2) < 4) || !chunkLenOk s.params.chunkTypes kind (be2 s.byte (base s + 2)), 2, 0x42),
   (decide (len s < roundUp (be2 s.byte (base s + 2))), 2, 0x43)]

theorem chunkRowRule_follows (s : State) (kind : ChunkKind) :
    Follows (chunkRowRule kind s.params s.ops s.byte) (chunkRowChecks s kind)
      { regs := chunkColumns (base s) (len s) (s.byte (base s)).toNat (s.byte (base s + 1)).toNat
          (be2 s.byte (base s + 2)) (chunkKindNumber kind) } := by
  rw [chunkRowRule_eq_bind]
  refine .guardRegion (.ite _ decide_eq_true_iff rfl rfl fun _ => ?_)
  rw [← List.append_nil [_, _]]
  refine (chunkDispatched_follows s kind).bind fun hframed => .nil ?_
  obtain ⟨-, -, -, hfits⟩ := chunkDispatched_ok_iff.1 hframed
  rw [chunkRegs_eq_columns s.ops.base s.ops.len hfits]
  rfl

theorem exec_chunkRowInstr (kind : ChunkKind) (s : State) :
    exec (chunkRowInstr kind) s = complete s (chunkRowRule kind s.params s.ops s.byte) := by
  cases kind <;> rfl

end Sys2Proof.Machine

namespace Sys2Proof.Proofs

open Sys2Proof.Machine Sys2Proof.Spec

/-- Settles O40: a printed row is the one of its kind, under the kind's number, and evaluates the shared rule. -/
theorem chunkRowsResult : Obligations.ChunkRowsResult := by
  intro s i type kind number lo hi hprinted
  obtain ⟨row, -, rfl, -, rfl, rfl, -⟩ := mem_chunkRows_iff.1 hprinted
  rw [exec_chunkRowInstr]
  exact complete_of_follows (chunkRowRule_follows s row.kind)

end Sys2Proof.Proofs

/-! # The script line `RUN` (30_encoding.md R130, R131)

The line's turns are run phase by phase: the operand writes, by induction on the operands, then the acceptance of the
opcode, the completion of the command and the read of `STATUS`. -/

namespace Sys2Proof.Machine

open Sys2Proof.Spec

/-- The operand registers after a write to `A i`, the last one for any `i` past it. -/
def Operands.set (o : Operands) : Nat → Word → Operands
  | 0, v => { o with a0 := v }
  | 1, v => { o with a1 := v }
  | 2, v => { o with a2 := v }
  | _ + 3, v => { o with a3 := v }

/-- The operand registers after writes to `A i`, `A (i + 1)` and so on. -/
def Operands.setFrom (o : Operands) : Nat → List Word → Operands
  | _, [] => o
  | i, v :: vs => (o.set i v).setFrom (i + 1) vs

/-- A write to an operand register of an idle block (20 R71). -/
theorem writeReg_operand {s : State} {i : Nat} (v : Word) (hidle : s.status.busy = false) (hi : i < 4) :
    writeReg s (0x10 + 4 * i) v = { s with ops := s.ops.set i v } := by
  interval_cases i <;> exact writeReg_idle v hidle (by decide)

/-- The operand writes of a `RUN` line, one step each (30 R131). -/
theorem runSteps_writeOperands {s : State} {i : Nat} {vs : List Word} {rest : List Turn} (k : Nat)
    (hidle : s.status.busy = false) (hi : i + vs.length ≤ 4) (h : s.agenda = writeOperands i vs ++ rest) :
    runSteps (vs.length + k) s = runSteps k { s with ops := s.ops.setFrom i vs, agenda := rest } := by
  induction vs generalizing s i with
  | nil =>
    rw [List.length_nil, Nat.zero_add, ← show s.agenda = rest from h]
    rfl
  | cons v vs ih =>
    rw [List.length_cons] at hi ⊢
    have hstep := step_of_write32 h (by omega) (writeReg_operand v hidle (by omega))
    rw [Nat.succ_add, runSteps_succ hstep]
    exact ih hidle (by omega) rfl

theorem writeCommand_of_commandWord {c : Instr} {word : Word} (h : commandWord c = some word) :
    writeCommand c = [.access (.write32 0x00 word)] := by
  rw [writeCommand, h]

/-- Every row answers a next state that is idle and keeps the host's side (60 R340, 46 R322). -/
theorem exec_answers (i : Instr) (s : State) :
    ∃ t, exec i s = .next t ∧ t.status.busy = false ∧ t.agenda = s.agenda ∧ t.received = s.received := by
  rw [exec_eq]
  cases ruleOf i s.params s.ops s.byte with
  | none => exact ⟨softReset s, rfl, rfl, rfl, rfl⟩
  | some r =>
    cases r with
    | ok d => exact ⟨succeed s d, rfl, rfl, rfl, rfl⟩
    | error e => exact ⟨raiseError s e, rfl, rfl, rfl, rfl⟩

/-- A busy block whose host waits completes its command, and the host then reads `STATUS` (30 R130). -/
theorem runSteps_wait {s : State} {c : Instr} (hbusy : s.status.busy = true) (hagenda : s.agenda = [.wait])
    (hpending : decodeCommand s.pending = .ok c) :
    ∃ t, exec c s = .next t
      ∧ runSteps 2 s = .next { t with agenda := [], received := t.status.word :: s.received } := by
  obtain ⟨t, hexec, hidle, hwait, hreceived⟩ := exec_answers c s
  have hcompletes : step s = .next t := by
    rw [step_of_wait_busy hagenda hbusy, blockTurn_busy hbusy, completePending, fetchCommand, hpending]
    exact hexec
  have hreads : step t = .next { t with agenda := [], received := t.status.word :: s.received } := by
    rw [step_of_wait_idle (hwait.trans hagenda) hidle, hostAccess_read32 (by decide), readReg_status, ← hreceived]
    rfl
  exact ⟨t, hexec, (runSteps_succ hcompletes).trans (runSteps_succ hreads)⟩

/-- An idle block accepts a write to `CMD` (60 R339), `OP` being the low byte of the word. -/
theorem step_accepts {s : State} {word : Word} {rest : List Turn} (hidle : s.status.busy = false)
    (h : nextAccess s (.write32 0x00 word) rest) :
    step s = .next
      { s with
        pending := word
        status :=
          { busy := true, done := false, ok := false, ovr := s.status.ovr, kind := 0#3, code := 0#8,
            op := octet (word.toNat % 256) }
        agenda := rest } := by
  have hop : word.extractLsb' 0 8 = octet (word.toNat % 256) := BitVec.eq_of_toNat_eq (by simp [octet])
  rw [step_of_write32 h (by decide) (writeReg_idle word hidle (by decide)), if_pos rfl, ← hop]
  rfl

end Sys2Proof.Machine

namespace Sys2Proof.Proofs

open Sys2Proof.Machine Sys2Proof.Spec

/-- Settles O7: in each of the four forms the operands written are those the line names, and the phases follow. -/
theorem runLineRunsItsCommand : Obligations.RunLineRunsItsCommand := by
  intro s c word v w x y line written hword hidle hempty hform started
  obtain ⟨hlength, hwritten⟩ : line.length ≤ 4 ∧ s.ops.setFrom 0 line = written := by
    simp only [List.mem_cons, Prod.mk.injEq, List.not_mem_nil, or_false] at hform
    obtain ⟨rfl, rfl⟩ | ⟨rfl, rfl⟩ | ⟨rfl, rfl⟩ | ⟨rfl, rfl⟩ := hform <;> exact ⟨by simp, rfl⟩
  have hagenda : (withScript s [.run c line]).agenda
      = writeOperands 0 line ++ [.access (.write32 0x00 word), .wait] := by
    simp [withScript, expandLine, hempty, writeCommand_of_commandWord hword]
  have hoperands := runSteps_writeOperands 3 (s := withScript s [.run c line]) hidle (by omega) hagenda
  have haccepted := step_accepts (s := { s with ops := written, agenda := [.access (.write32 0x00 word), .wait] })
    hidle rfl
  have hrun : runSteps (line.length + 3) (withScript s [.run c line]) = runSteps 2 started := by
    rw [hoperands, ← runSteps_succ haccepted, ← hwritten]
    rfl
  obtain ⟨finished, hexec, hwait⟩ := runSteps_wait (s := started) rfl rfl (decodeCommand_of_commandWord hword)
  exact ⟨finished, hexec, hrun.trans hwait⟩

end Sys2Proof.Proofs

/-! # The one's-complement checksum (40_ones_complement.md)

The arithmetic of the sum and of one fold of its carries comes first, then the two commands, which run the same checks. -/

/-! ### The sum and its folds (40 R141) -/

namespace Sys2Proof.Machine

open Sys2Proof.Spec

theorem ocSumWords_le (rd : Nat → Byte) (b : Nat) : ∀ k, ocSumWords rd b k ≤ 65535 * k
  | 0 => le_rfl
  | k + 1 => by
    have hwords := ocSumWords_le rd b k
    have hword := (memRead2 rd (b + 2 * k)).isLt
    rw [ocSumWords]
    omega

/-- The 32768 words of the longest region do not overflow 32 bits. -/
theorem ocSum_lt {n : Nat} (rd : Nat → Byte) (b : Nat) (hn : n ≤ 65536) : ocSum rd b n < 2 ^ 32 := by
  have hwords := ocSumWords_le rd b (n / 2)
  rw [ocSum]
  omega

theorem foldOnce_eq_zero_iff {S : Nat} : foldOnce S = 0 ↔ S = 0 := by
  unfold foldOnce
  omega

/-- The first fold of a 32-bit sum leaves a carry of at most 1. -/
theorem foldOnce_le {S : Nat} (h : S < 2 ^ 32) : foldOnce S ≤ 0x1FFFE := by
  unfold foldOnce
  omega

/-- The second fold takes in the last carry without making a new one. -/
theorem foldOnce_le_of_le {S : Nat} (h : S ≤ 0x1FFFE) : foldOnce S ≤ 0xFFFF := by
  unfold foldOnce
  omega

/-- A carry counts 65536 where it stands and 1 where it is added, which is the same modulo 65535. -/
theorem fold_mod (S : Nat) : fold S % 65535 = S % 65535 :=
  (foldOnce_mod (foldOnce S)).trans (foldOnce_mod S)

theorem fold_eq_zero_iff {S : Nat} : fold S = 0 ↔ S = 0 :=
  foldOnce_eq_zero_iff.trans foldOnce_eq_zero_iff

theorem fold_le {S : Nat} (h : S < 2 ^ 32) : fold S ≤ 0xFFFF :=
  foldOnce_le_of_le (foldOnce_le h)

/-! ### `OC16.GEN` and `OC16.VAL` (40 R144, R145) -/

/-- Both commands check the range, then that the length is even. -/
theorem oc16Guard_follows (s : State) (d : Done) : Follows (oc16Guard s.params s.ops d) (oc16Checks s) d :=
  .guardRegion (.ite _ beq_iff_eq rfl rfl fun _ => .nil rfl)

theorem ocGen_eq (rd : Nat → Byte) (b n : Nat) : ocGen rd b n = 0xFFFF - twoFolds (wordSum rd b n) := by
  rw [ocGen, ocSum_eq, twoFolds_eq]

/-- The flag of a validation says whether the folded sum is all ones. -/
theorem flagWord_ocVal (rd : Nat → Byte) (b n : Nat) :
    flagWord (ocVal rd b n) = if twoFolds (wordSum rd b n) = 0xFFFF then 1#32 else 0#32 := by
  rw [ocVal, ocSum_eq, ← twoFolds_eq]
  exact if_congr beq_iff_eq rfl rfl

theorem oc16GenRule_follows (s : State) :
    Follows (oc16GenRule s.params s.ops s.byte) (oc16Checks s)
      { regs :=
          { r0 := reg (0xFFFF - twoFolds (wordSum s.byte (base s) (len s))),
            r1 := reg (twoFolds (wordSum s.byte (base s) (len s))) } } := by
  rw [oc16GenRule, ocGen_eq, ocSum_eq, ← twoFolds_eq]
  exact oc16Guard_follows s _

theorem oc16ValRule_follows (s : State) :
    Follows (oc16ValRule s.params s.ops s.byte) (oc16Checks s)
      { regs :=
          { r0 := if twoFolds (wordSum s.byte (base s) (len s)) = 0xFFFF then 1#32 else 0#32,
            r1 := reg (twoFolds (wordSum s.byte (base s) (len s))) } } := by
  rw [oc16ValRule, flagWord_ocVal, ocSum_eq, ← twoFolds_eq]
  exact oc16Guard_follows s _

end Sys2Proof.Machine

namespace Sys2Proof.Proofs

open Sys2Proof.Machine Sys2Proof.Spec

/-- Settles O48: the sum fits in 32 bits, so its two folds end below 65536 and keep it modulo 65535. -/
theorem sumAndFold : Obligations.SumAndFold := by
  intro rd b n _ hn S
  have hS : S < 2 ^ 32 := ocSum_lt rd b hn
  have hpos : 0 < S → 1 ≤ fold S := fun h => Nat.one_le_iff_ne_zero.2 (mt fold_eq_zero_iff.1 h.ne')
  exact ⟨ocSum_eq rd b n, hS, (twoFolds_eq S).symm, fold_le hS, fold_eq_zero_iff, fun h => ⟨hpos h, fold_mod S⟩⟩

/-- Settles O21: the rule follows its two checks, and the command completes it. -/
theorem oc16GenResult : Obligations.Oc16GenResult :=
  ⟨decodeCommand_of_commandWord rfl, fun s => complete_of_follows (oc16GenRule_follows s)⟩

/-- Settles O22: the rule follows its two checks, and a failed validation is a result like any other. -/
theorem oc16ValResult : Obligations.Oc16ValResult :=
  ⟨decodeCommand_of_commandWord rfl, fun s => complete_of_follows (oc16ValRule_follows s)⟩

end Sys2Proof.Proofs

/-! # The CRC32c checksum (41_crc32c.md)

The two commands run the same checks, so their rules follow one list. That the CRC sees a single-bit change is a fact
about the shift that builds the table: it is linear and injective, a byte of the update is eight of them applied to the
register with the byte added in, and so the update is injective in the register and in the byte. -/

/-! ### `CRC32C.GEN` and `CRC32C.VAL` (41 R165, R166) -/

namespace Sys2Proof.Machine

open Sys2Proof.Spec

/-- Both commands check the range, then that the checksum field lies in the region. -/
theorem crc32cGuard_follows (s : State) (d : Done) : Follows (crc32cGuard s.params s.ops d) (crcChecks s) d :=
  .guardRegion (.ite _ decide_eq_true_iff rfl rfl fun _ => .nil rfl)

/-- The flag of a validation says whether the stored field and the computed CRC are the same number. -/
theorem flagWord_crc32c (rd : Nat → Byte) (a b n k : Nat) :
    flagWord (memRead4 rd a == crc32c rd b n k) = if be4 rd a = crcOf rd b n k then 1#32 else 0#32 := by
  have hiff : (memRead4 rd a == crc32c rd b n k) = true ↔ be4 rd a = crcOf rd b n k := by
    rw [beq_iff_eq, ← BitVec.toNat_inj, memRead4_be4, crc32c_toNat]
  exact if_congr hiff rfl rfl

theorem crc32cGenRule_follows (s : State) :
    Follows (crc32cGenRule s.params s.ops s.byte) (crcChecks s)
      { regs := { r0 := reg (crcOf s.byte (base s) (len s) s.ops.a2.toNat) } } := by
  rw [crc32cGenRule, crc32c_reg]
  exact crc32cGuard_follows s _

theorem crc32cValRule_follows (s : State) :
    Follows (crc32cValRule s.params s.ops s.byte) (crcChecks s)
      { regs :=
          { r0 := if be4 s.byte (base s + s.ops.a2.toNat) = crcOf s.byte (base s) (len s) s.ops.a2.toNat
              then 1#32 else 0#32,
            r1 := reg (crcOf s.byte (base s) (len s) s.ops.a2.toNat),
            r2 := reg (be4 s.byte (base s + s.ops.a2.toNat)) } } := by
  rw [crc32cValRule, flagWord_crc32c, crc32c_reg, memRead4_reg]
  exact crc32cGuard_follows s _

end Sys2Proof.Machine

/-! ### The shift and the update (41 R161, R162) -/

namespace Sys2Proof.Machine

theorem crcShift_of_odd {c : Word} (h : c.getLsbD 0 = true) : crcShift c = (c >>> 1) ^^^ crcPolyReflected := if_pos h

theorem crcShift_of_even {c : Word} (h : c.getLsbD 0 = false) : crcShift c = c >>> 1 :=
  if_neg (Bool.eq_false_iff.1 h)

/-- The polynomial is added in once for each odd summand, and twice is not at all. -/
theorem crcShift_xor (x y : Word) : crcShift (x ^^^ y) = crcShift x ^^^ crcShift y := by
  have hlow : (x ^^^ y).getLsbD 0 = (x.getLsbD 0 ^^ y.getLsbD 0) := BitVec.getLsbD_xor
  cases hx : x.getLsbD 0 <;> cases hy : y.getLsbD 0 <;> rw [hx, hy] at hlow
  · rw [crcShift_of_even hlow, crcShift_of_even hx, crcShift_of_even hy, BitVec.ushiftRight_xor_distrib]
  · rw [crcShift_of_odd hlow, crcShift_of_even hx, crcShift_of_odd hy, BitVec.ushiftRight_xor_distrib, BitVec.xor_assoc]
  · rw [crcShift_of_odd hlow, crcShift_of_odd hx, crcShift_of_even hy, BitVec.ushiftRight_xor_distrib]
    ac_rfl
  · have hcancel : (x >>> 1 ^^^ crcPolyReflected) ^^^ (y >>> 1 ^^^ crcPolyReflected)
        = x >>> 1 ^^^ y >>> 1 ^^^ (crcPolyReflected ^^^ crcPolyReflected) := by ac_rfl
    rw [crcShift_of_even hlow, crcShift_of_odd hx, crcShift_of_odd hy, BitVec.ushiftRight_xor_distrib, hcancel,
      BitVec.xor_self, BitVec.xor_zero]

/-- The bit shifted out is not lost: it is the top bit of the result, as the polynomial's top bit is set. -/
theorem crcShift_top (c : Word) : (crcShift c).getLsbD 31 = c.getLsbD 0 := by
  have hshifted : (c >>> 1).getLsbD 31 = false := by simp
  cases h : c.getLsbD 0 with
  | true =>
    rw [crcShift_of_odd h, BitVec.getLsbD_xor, hshifted]
    rfl
  | false => rw [crcShift_of_even h, hshifted]

/-- The top bit of the result tells the bit shifted out, and with it whether the polynomial was added in. -/
theorem crcShift_injective : Function.Injective crcShift := by
  intro c c' h
  have hlow : c.getLsbD 0 = c'.getLsbD 0 := by rw [← crcShift_top, h, crcShift_top]
  have hrest : c >>> 1 = c' >>> 1 := by
    cases h' : c'.getLsbD 0 with
    | true => rwa [crcShift_of_odd (hlow.trans h'), crcShift_of_odd h', BitVec.xor_left_inj] at h
    | false => rwa [crcShift_of_even (hlow.trans h'), crcShift_of_even h'] at h
  refine BitVec.eq_of_getLsbD_eq fun i _ => ?_
  cases i with
  | zero => exact hlow
  | succ i =>
    have hbit := congrArg (·.getLsbD i) hrest
    simpa only [BitVec.getLsbD_ushiftRight, Nat.add_comm 1 i] using hbit

theorem crcShifts_xor : ∀ (n : Nat) (x y : Word), crcShifts n (x ^^^ y) = crcShifts n x ^^^ crcShifts n y
  | 0, _, _ => rfl
  | n + 1, x, y => by rw [crcShifts, crcShift_xor, crcShifts_xor n, crcShifts, crcShifts]

theorem crcShifts_injective : ∀ n, Function.Injective (crcShifts n)
  | 0 => Function.injective_id
  | n + 1 => (crcShifts_injective n).comp crcShift_injective

/-- While the bits shifted out are 0 the shifts are plain ones. -/
theorem crcShifts_of_low_zero : ∀ (n : Nat) {c : Word}, (∀ i < n, c.getLsbD i = false) → crcShifts n c = c >>> n
  | 0, c, _ => (BitVec.ushiftRight_zero c).symm
  | n + 1, c, h => by
    have hnext : ∀ i < n, (c >>> 1).getLsbD i = false := fun i hi => by
      rw [BitVec.getLsbD_ushiftRight]
      exact h (1 + i) (by omega)
    rw [crcShifts, crcShift_of_even (h 0 n.succ_pos), crcShifts_of_low_zero n hnext, ← BitVec.shiftRight_add,
      Nat.add_comm]

/-- A register with a byte added in: the low eight bits, which the byte touches, and the ones above. -/
theorem xor_byte_split (crc : Word) (b : Byte) :
    crc ^^^ b.setWidth 32 = (crc.extractLsb' 0 8 ^^^ b).setWidth 32 ^^^ ((crc >>> 8) <<< 8) := by
  refine BitVec.eq_of_getLsbD_eq fun i hi => ?_
  by_cases h : i < 8
  · simp [h, hi]
  · have hi' : 8 ≤ i := Nat.le_of_not_lt h
    simp [h, hi, BitVec.getLsbD_of_ge b i hi', Nat.add_sub_cancel' hi']

/-- Eight shifts move the bits above the low eight down, unchanged. -/
theorem crcShifts_high (crc : Word) : crcShifts 8 ((crc >>> 8) <<< 8) = crc >>> 8 := by
  rw [crcShifts_of_low_zero 8 fun i hi => by simp [hi]]
  refine BitVec.eq_of_getLsbD_eq fun i _ => ?_
  by_cases h : 8 + i < 32
  · simp [h]
  · simp [h, BitVec.getLsbD_of_ge crc (8 + i) (Nat.le_of_not_lt h)]

/-- One byte of the update is eight shifts of the register with the byte added in: the table holds those of the low eight
bits. -/
theorem crcUpdate_eq_crcShifts (crc : Word) (b : Byte) : crcUpdate crc b = crcShifts 8 (crc ^^^ b.setWidth 32) := by
  rw [xor_byte_split, crcShifts_xor, crcShifts_high, crcUpdate, crcTable]

/-- The same byte leaves different registers different. -/
theorem crcUpdate_register_injective (b : Byte) : Function.Injective (crcUpdate · b) := by
  intro crc crc' h
  simp only [crcUpdate_eq_crcShifts] at h
  exact (BitVec.xor_left_inj _).1 (crcShifts_injective 8 h)

/-- Different bytes take one register to different ones. -/
theorem crcUpdate_byte_injective (crc : Word) : Function.Injective (crcUpdate crc) := by
  intro b b' h
  rw [crcUpdate_eq_crcShifts, crcUpdate_eq_crcShifts] at h
  have hwide := (BitVec.xor_right_inj _).1 (crcShifts_injective 8 h)
  simpa using congrArg (BitVec.setWidth 8) hwide

/-! ### One changed byte (41 R164) -/

open Sys2Proof.Spec

/-- The register is the same up to the changed byte, different after it, and stays different. -/
theorem crcRegister_ne_of_byte_ne {rd rd' : Nat → Byte} {b k i n : Nat} (hsame : ∀ x, x ≠ b + i → rd' x = rd x)
    (hchanged : rd' (b + i) ≠ rd (b + i)) (hfield : ¬(k ≤ i ∧ i < k + 4)) (hn : i + 1 ≤ n) :
    crcRegister rd' b k n ≠ crcRegister rd b k n := by
  induction n, hn using Nat.le_induction with
  | base =>
    have hbefore : crcRegister rd' b k i = crcRegister rd b k i :=
      crcRegister_congr fun x hx _ => hsame (b + x) (by omega)
    rw [crcRegister, crcRegister, hbefore, crcByte, crcByte, if_neg hfield, if_neg hfield]
    exact (crcUpdate_byte_injective _).ne hchanged
  | succ n hn ih =>
    have hbyte : crcByte rd' b k n = crcByte rd b k n := by
      rw [crcByte, crcByte, hsame (b + n) (by omega)]
    rw [crcRegister, crcRegister, hbyte]
    exact (crcUpdate_register_injective _).ne ih

theorem crc32c_ne_of_byte_ne {rd rd' : Nat → Byte} {b n k i : Nat} (hsame : ∀ x, x ≠ b + i → rd' x = rd x)
    (hchanged : rd' (b + i) ≠ rd (b + i)) (hfield : ¬(k ≤ i ∧ i < k + 4)) (hn : i < n) :
    crc32c rd' b n k ≠ crc32c rd b n k :=
  fun h => crcRegister_ne_of_byte_ne hsame hchanged hfield hn (BitVec.not_inj.1 h)

theorem ne_of_flippedBit {rd rd' : Nat → Byte} {a j : Nat} (h : FlippedBit rd rd' a j) : rd' a ≠ rd a := by
  obtain ⟨hj, hflip, -⟩ := h
  have hmask : ∀ j < 8, 1#8 <<< j ≠ 0#8 := by decide
  rw [hflip]
  exact fun h => hmask j hj (by simpa using h)

end Sys2Proof.Machine

namespace Sys2Proof.Proofs

open Sys2Proof.Machine Sys2Proof.Spec

/-- Settles O23: the rule follows its two checks, and the command completes it. -/
theorem crc32cGenResult : Obligations.Crc32cGenResult :=
  ⟨decodeCommand_of_commandWord rfl, fun s => complete_of_follows (crc32cGenRule_follows s)⟩

/-- Settles O24: the rule follows its two checks, and a mismatch is a result like any other. -/
theorem crc32cValResult : Obligations.Crc32cValResult :=
  ⟨decodeCommand_of_commandWord rfl, fun s => complete_of_follows (crc32cValRule_follows s)⟩

/-- Settles O52: a flipped byte is another byte; outside the field the CRC sees it, inside the CRC reads zero for it. -/
theorem crcDetectsSingleBit : Obligations.CrcDetectsSingleBit := by
  intro rd rd' b n k a j hflip
  have hchanged := ne_of_flippedBit hflip
  obtain ⟨-, -, hsame⟩ := hflip
  refine ⟨fun hlo hhi hfield => ?_, fun hlo hhi => ?_⟩
  · obtain ⟨i, rfl⟩ := Nat.exists_eq_add_of_le hlo
    exact crc32c_ne_of_byte_ne hsame hchanged (by omega) (by omega)
  · exact crc32c_congr fun i _ hfield => hsame (b + i) (by omega)

end Sys2Proof.Proofs

/-! # The IPv4 header (42_ipv4.md)

The shared decode follows the checks of R181; the two parse commands continue it, and `IP4.CSUM.PATCH` makes some of the
same checks itself. -/

/-! ### The fields and the result columns as numbers (30 R100, 42 R186) -/

namespace Sys2Proof.Machine

open Sys2Proof.Spec

theorem ip4Fields_version_toNat (s : State) : (ip4Fields s.byte (base s)).version.toNat = version s :=
  high_nibble_toNat _

theorem ip4Fields_ihl_toNat (s : State) : (ip4Fields s.byte (base s)).ihl.toNat = ihl s :=
  low_nibble_toNat _

theorem ip4HdrLen_ip4Fields (s : State) : ip4HdrLen (ip4Fields s.byte (base s)) = 4 * ihl s := by
  rw [ip4HdrLen, ip4Fields_ihl_toNat, Nat.mul_comm]

theorem ip4Fields_totalLength_toNat (s : State) : (ip4Fields s.byte (base s)).totalLength.toNat = totalLength s :=
  memRead2_be2 _ _

theorem ip4Fields_headerChecksum_toNat (s : State) :
    (ip4Fields s.byte (base s)).headerChecksum.toNat = be2 s.byte (base s + 10) :=
  memRead2_be2 _ _

/-- `flags`, as 30 R100 places it in its 16-bit word. -/
theorem topThreeBits_reg (rd : Nat → Byte) (a : Nat) :
    ((memRead2 rd a).extractLsb' 13 3).setWidth 32 = reg (be2 rd a / 8192) := by
  have hlt := be2_lt rd a
  rw [setWidth_eq_ofNat, BitVec.extractLsb'_toNat, memRead2_be2, Nat.shiftRight_eq_div_pow, Nat.mod_eq_of_lt (by omega)]
  rfl

/-- `fragOffset`, as 30 R100 places it in the same word. -/
theorem lowThirteenBits_reg (rd : Nat → Byte) (a : Nat) :
    ((memRead2 rd a).extractLsb' 0 13).setWidth 32 = reg (be2 rd a % 8192) := by
  rw [setWidth_eq_ofNat, BitVec.extractLsb'_toNat, memRead2_be2]
  rfl

theorem ip4Regs_eq_columns (s : State) : ip4Regs (base s) (ip4Fields s.byte (base s)) = ip4Columns s := by
  rw [ip4Regs, ip4HdrLen_ip4Fields, ip4Fields_totalLength_toNat, setWidth_eq_ofNat, setWidth_eq_ofNat,
    ip4Fields_version_toNat, ip4Fields_ihl_toNat]
  simp only [ip4Fields, byteWord_reg, halfWord_reg, memRead4_reg, topThreeBits_reg, lowThirteenBits_reg]
  rfl

/-! ### The ordered checks (42 R181, R190) -/

theorem version_check_iff (s : State) :
    (version s != 4) = true ↔ (ip4Fields s.byte (base s)).version ≠ 4#4 := by
  rw [bne_iff_ne, ← ip4Fields_version_toNat, Ne, Ne, ← BitVec.toNat_inj]
  rfl

/-- The checks of `Ip4Header` are those of 42 R181 without the range check that each command makes first. A header of
at least five words has room for the checksum field. -/
theorem ip4Header_follows (s : State) :
    Follows (ip4Header s.byte (base s) (len s)) (ip4Checks s).tail (ip4Fields s.byte (base s)) := by
  unfold ip4Header
  simp only [ip4HdrLen_ip4Fields, ip4Fields_ihl_toNat, ip4Fields_totalLength_toNat, ip4Fields_headerChecksum_toNat]
  refine .ite _ decide_eq_true_iff rfl rfl fun _ => .ite _ (version_check_iff s) rfl rfl fun _ =>
    .ite _ decide_eq_true_iff rfl rfl fun hihl => .ite _ decide_eq_true_iff rfl rfl fun _ => ?_
  rw [ocGenZ_eq (by decide) (by omega)]
  exact .ite _ bne_iff_ne rfl rfl fun _ => .ite _ decide_eq_true_iff rfl rfl fun _ => .nil rfl

theorem ip4HdrParseRule_eq_bind (p : Params) (o : Operands) (rd : Nat → Byte) :
    ip4HdrParseRule p o rd = guardRegion p o
      ((ip4Header rd o.base o.len).bind fun h => .ok { regs := ip4Regs o.base h }) := by
  unfold ip4HdrParseRule
  cases ip4Header rd o.base o.len <;> rfl

theorem ip4DgramParseRule_eq_bind (p : Params) (o : Operands) (rd : Nat → Byte) :
    ip4DgramParseRule p o rd = guardRegion p o
      ((ip4Header rd o.base o.len).bind fun h =>
        if o.len < h.totalLength.toNat then .error .ipDatagramTruncated else .ok { regs := ip4Regs o.base h }) := by
  unfold ip4DgramParseRule
  cases ip4Header rd o.base o.len <;> rfl

/-- Whatever a parse command does with the decoded header, the checks of 42 R181 come first. -/
theorem guardRegion_ip4Header_follows {s : State} {f : Ip4Fields → Rule} {checks : List Check} {d : Done}
    (h : Follows (f (ip4Fields s.byte (base s))) checks d) :
    Follows (guardRegion s.params s.ops ((ip4Header s.byte (base s) (len s)).bind f)) (ip4Checks s ++ checks) d :=
  .guardRegion ((ip4Header_follows s).bind fun _ => h)

theorem ip4HdrParseRule_follows (s : State) :
    Follows (ip4HdrParseRule s.params s.ops s.byte) (ip4Checks s) { regs := ip4Columns s } := by
  rw [ip4HdrParseRule_eq_bind, ← List.append_nil (ip4Checks s), ← ip4Regs_eq_columns]
  exact guardRegion_ip4Header_follows (.nil rfl)

theorem ip4DgramParseRule_follows (s : State) :
    Follows (ip4DgramParseRule s.params s.ops s.byte)
      (ip4Checks s ++ [(decide (len s < totalLength s), 2, 0x16)]) { regs := ip4Columns s } := by
  rw [ip4DgramParseRule_eq_bind, ← ip4Regs_eq_columns, ← ip4Fields_totalLength_toNat]
  exact guardRegion_ip4Header_follows (.ite _ decide_eq_true_iff rfl rfl fun _ => .nil rfl)

/-! ### Storing the checksum (42 R190) -/

/-- A number stored as two bytes, most significant first (00 R10). -/
theorem cells2_ofNat (a n : Nat) :
    cells2 a (BitVec.ofNat 16 n) = [(a, octet (n / 256)), (a + 1, octet (n % 256))] := by
  have hhigh : (BitVec.ofNat 16 n).extractLsb' 8 8 = octet (n / 256) := by
    apply BitVec.eq_of_toNat_eq
    simp only [octet, BitVec.extractLsb'_toNat, BitVec.toNat_ofNat, Nat.shiftRight_eq_div_pow]
    omega
  have hlow : (BitVec.ofNat 16 n).extractLsb' 0 8 = octet (n % 256) := by
    apply BitVec.eq_of_toNat_eq
    simp only [octet, BitVec.extractLsb'_toNat, BitVec.toNat_ofNat, Nat.shiftRight_zero]
    omega
  rw [cells2, hhigh, hlow]

/-- The command's own checks are the three of 42 R181 that the length of the header rests on. -/
theorem ip4CsumPatchRule_follows (s : State) :
    Follows (ip4CsumPatchRule s.params s.ops s.byte) (ip4PatchChecks s)
      { regs := { r0 := reg (checksumWithout s.byte (base s) (4 * ihl s) 10), r1 := reg (4 * ihl s) },
        stores := [(base s + 10, octet (checksumWithout s.byte (base s) (4 * ihl s) 10 / 256)),
          (base s + 11, octet (checksumWithout s.byte (base s) (4 * ihl s) 10 % 256))] } := by
  have hbase : s.ops.base = base s := rfl
  unfold ip4CsumPatchRule
  simp only [hbase, ip4HdrLen_ip4Fields, ip4Fields_ihl_toNat]
  refine .guardRegion (.ite _ decide_eq_true_iff rfl rfl fun _ => .ite _ decide_eq_true_iff rfl rfl fun hihl =>
    .ite _ decide_eq_true_iff rfl rfl fun _ => .nil ?_)
  rw [ocGenZ_eq (by decide) (by omega), cells2_ofNat]
  rfl

end Sys2Proof.Machine

namespace Sys2Proof.Proofs

open Sys2Proof.Machine Sys2Proof.Spec

/-- Settles O26: the rule is the shared decode and its columns. -/
theorem ip4HdrParseResult : Obligations.Ip4HdrParseResult :=
  ⟨decodeCommand_of_commandWord rfl, fun s => complete_of_follows (ip4HdrParseRule_follows s)⟩

/-- Settles O27: the shared decode, one more check, and the same columns. -/
theorem ip4DgramParseResult : Obligations.Ip4DgramParseResult :=
  ⟨decodeCommand_of_commandWord rfl, fun s => complete_of_follows (ip4DgramParseRule_follows s)⟩

/-- Settles O28: the rule follows its four checks, and a completion makes its two stores. -/
theorem ip4CsumPatchResult : Obligations.Ip4CsumPatchResult :=
  ⟨decodeCommand_of_commandWord rfl, fun s => complete_of_follows (ip4CsumPatchRule_follows s)⟩

end Sys2Proof.Proofs

/-! # The two ICMP commands (43_icmp.md R212, R216, R218, R222)

`ICMP.PARSE` is its dispatch on the type tag: at a tag of the instance's table its rule is the row's own rule, and at any
other tag it is an error behind the first checks. `ICMP.CSUM.PATCH` makes the first checks without a dispatch. -/

namespace Sys2Proof.Machine

open Sys2Proof.Spec

/-! ### `ICMP.PARSE` at a known and at an unknown type tag (43 R212 step 2, R218) -/

/-- At a tag of the table the command does what the row it selects does (30 R135). -/
theorem icmpParseRule_of_some {p : Params} {o : Operands} {rd : Nat → Byte} {row : IcmpRow}
    (h : icmpRowOf p.icmpTypes (rd o.base) = some row) :
    icmpParseRule p o rd = icmpRowRule row.kind row.reply p o rd := by
  rw [icmpParseRule, h]
  rfl

theorem icmpParseRule_of_none {p : Params} {o : Operands} {rd : Nat → Byte}
    (h : icmpRowOf p.icmpTypes (rd o.base) = none) :
    icmpParseRule p o rd = icmpPrefix p o (.error .messageTypeInvalid) := by
  rw [icmpParseRule, h]

theorem icmpParseRule_follows_of_some {s : State} {row : IcmpRow}
    (h : icmpRowOf s.params.icmpTypes (s.byte (base s)) = some row) :
    Follows (icmpParseRule s.params s.ops s.byte) (icmpKindChecks s row.kind)
      { regs := icmpColumns s row.kind (if row.reply then 1 else 0) } := by
  rw [icmpParseRule_of_some h]
  exact icmpRowRule_follows s row.kind row.reply

/-- An unknown tag is one more check, which always fails: there is no result for `d` to be. -/
theorem icmpParseRule_follows_of_none {s : State} (h : icmpRowOf s.params.icmpTypes (s.byte (base s)) = none)
    (d : Done) : Follows (icmpParseRule s.params s.ops s.byte) (icmpFirstChecks s ++ [(true, 1, 0x20)]) d := by
  rw [icmpParseRule_of_none h]
  exact .icmpPrefix (.cons .messageTypeInvalid rfl rfl (fun _ => rfl) fun hpass => absurd rfl hpass)

/-- The first checks come before the dispatch: where one fails, the tag makes no difference. -/
theorem exec_icmpParse_of_firstChecks {s : State} {k c : Nat}
    (h : firstFailure (icmpFirstChecks s) = some (k, c)) : exec .icmpParse s = .next (errState s k c) := by
  cases hlookup : icmpRowOf s.params.icmpTypes (s.byte (base s)) with
  | none =>
    exact (complete_of_follows (icmpParseRule_follows_of_none hlookup {})).2 k c (firstFailure_append_of_some h)
  | some row =>
    refine (complete_of_follows (icmpParseRule_follows_of_some hlookup)).2 k c ?_
    rw [icmpKindChecks, List.append_assoc]
    exact firstFailure_append_of_some h

theorem exec_icmpParse_of_none {s : State} (hfirst : firstFailure (icmpFirstChecks s) = none)
    (hlookup : icmpRowOf s.params.icmpTypes (s.byte (base s)) = none) :
    exec .icmpParse s = .next (errState s 1 0x20) :=
  (complete_of_follows (icmpParseRule_follows_of_none hlookup {})).2 1 0x20 (firstFailure_append_of_none hfirst)

/-! ### `ICMP.CSUM.PATCH` (43 R222) -/

/-- The first checks have seen to the room for the checksum word that the sum leaves out. -/
theorem icmpCsumPatchRule_follows (s : State) :
    Follows (icmpCsumPatchRule s.params s.ops s.byte) (icmpFirstChecks s ++ [(len s % 2 == 1, 7, 0x03)])
      { regs := { r0 := reg (checksumWithout s.byte (base s) (len s) 2) },
        stores := [(base s + 2, octet (checksumWithout s.byte (base s) (len s) 2 / 256)),
          (base s + 3, octet (checksumWithout s.byte (base s) (len s) 2 % 256))] } := by
  refine .guardRegion (.ite _ decide_eq_true_iff rfl rfl fun hfour => .ite _ beq_iff_eq rfl rfl fun _ => .nil ?_)
  have hroom : 2 + 2 ≤ len s := Nat.not_lt.1 hfour
  have hsum : ocGenZ s.byte s.ops.base s.ops.len 2 = checksumWithout s.byte (base s) (len s) 2 :=
    ocGenZ_eq (by decide) hroom
  simp only [hsum, cells2_ofNat]
  rfl

end Sys2Proof.Machine

namespace Sys2Proof.Proofs

open Sys2Proof.Machine Sys2Proof.Spec

/-- Settles O29: the first checks, then the dispatch, then the rule of the row it selects. -/
theorem icmpParseResult : Obligations.IcmpParseResult :=
  ⟨decodeCommand_of_commandWord rfl, fun _ =>
    ⟨fun _ _ => exec_icmpParse_of_firstChecks, exec_icmpParse_of_none,
      fun _ hrow => complete_of_follows (icmpParseRule_follows_of_some hrow)⟩⟩

/-- Settles O30: the rule follows its three checks, and a completion makes its two stores. -/
theorem icmpCsumPatchResult : Obligations.IcmpCsumPatchResult :=
  ⟨decodeCommand_of_commandWord rfl, fun s => complete_of_follows (icmpCsumPatchRule_follows s)⟩

end Sys2Proof.Proofs

/-! # The SCTP packet (44_sctp_packet.md)

The four commands make the checks of R253 in its order, each of them the first one, two or three parts: the header, the
CRC, the chunks. The model walks the chunks by recursion over fuel; each chunk it frames takes at least 4 bytes, so fuel
for every byte left lets it reach what the walk relations of the statements reach. -/

/-! ### The framing of one chunk at any place (45 R281) -/

namespace Sys2Proof.Machine

open Sys2Proof.Spec

section
variable {p : Params} {rd : Nat → Byte} {cur rem : Nat}

theorem chunkAt_of_short (h : rem < 4) : chunkAt p rd cur rem = .error .chunkHeaderTruncated := if_pos h

theorem chunkAt_of_unknown (h : ¬rem < 4) (hkind : chunkKindOf p.chunkTypes (rd cur) = none) :
    chunkAt p rd cur rem = .error .chunkTypeInvalid := by
  rw [chunkAt, if_neg h, hkind]

theorem chunkAt_of_known {kind : ChunkKind} (h : ¬rem < 4)
    (hkind : chunkKindOf p.chunkTypes (rd cur) = some kind) :
    chunkAt p rd cur rem = chunkDispatched p rd kind cur rem := by
  rw [chunkAt, if_neg h, hkind]

theorem lengthAllowed_of_known {t : Byte} {kind : ChunkKind} (hkind : chunkKindOf p.chunkTypes t = some kind)
    (L : Nat) : lengthAllowed p t L = chunkLenOk p.chunkTypes kind L := by
  rw [lengthAllowed, hkind]

/-- A chunk of a known type follows the checks of 45 R281, the one for the type passing. -/
theorem chunkAt_follows_of_some {kind : ChunkKind} (hkind : chunkKindOf p.chunkTypes (rd cur) = some kind) :
    Follows (chunkAt p rd cur rem) (chunkChecks p rd cur rem)
      { type := rd cur, flags := rd (cur + 1), length := be2 rd (cur + 2), kind := kind } := by
  refine .cons .chunkHeaderTruncated rfl rfl (fun h => chunkAt_of_short (decide_eq_true_iff.1 h)) fun h => ?_
  rw [chunkAt_of_known (mt decide_eq_true_iff.2 h) hkind, chunkDispatched, hkind, lengthAllowed_of_known hkind]
  simp only [memRead2_be2, ← roundUp_eq]
  exact .cons .chunkTypeInvalid rfl rfl (fun h => by cases h) fun _ =>
    .ite _ (by simp) rfl rfl fun _ => .ite _ decide_eq_true_iff rfl rfl fun _ => .nil rfl

/-- At an unknown type some check fails: there is no framing for `c` to be. -/
theorem chunkAt_follows_of_none (hkind : chunkKindOf p.chunkTypes (rd cur) = none) (c : Chunk) :
    Follows (chunkAt p rd cur rem) (chunkChecks p rd cur rem) c := by
  refine .cons .chunkHeaderTruncated rfl rfl (fun h => chunkAt_of_short (decide_eq_true_iff.1 h)) fun h => ?_
  refine .cons .chunkTypeInvalid rfl rfl (fun _ => chunkAt_of_unknown (mt decide_eq_true_iff.2 h) hkind) fun h => ?_
  exact absurd (Option.isNone_iff_eq_none.2 hkind) h

/-- Whatever the type, a chunk that passes the checks takes its length rounded up to words. -/
theorem chunkAt_follows (p : Params) (rd : Nat → Byte) (cur rem : Nat) :
    ∃ c, chunkWireLen c = roundUp (be2 rd (cur + 2))
      ∧ Follows (chunkAt p rd cur rem) (chunkChecks p rd cur rem) c := by
  cases hkind : chunkKindOf p.chunkTypes (rd cur) with
  | none =>
    exact ⟨⟨rd cur, rd (cur + 1), be2 rd (cur + 2), .data⟩, (roundUp_eq _).symm, chunkAt_follows_of_none hkind _⟩
  | some kind =>
    exact ⟨⟨rd cur, rd (cur + 1), be2 rd (cur + 2), kind⟩, (roundUp_eq _).symm, chunkAt_follows_of_some hkind⟩

/-! ### The walk over the chunks (44 R253 step 3) -/

theorem chunkAt_of_framed (h : firstFailure (chunkChecks p rd cur rem) = none) :
    ∃ c, chunkAt p rd cur rem = .ok c ∧ chunkWireLen c = roundUp (be2 rd (cur + 2)) := by
  obtain ⟨c, hwire, hfollows⟩ := chunkAt_follows p rd cur rem
  exact ⟨c, hfollows.ok h, hwire⟩

theorem chunkAt_of_bad {k c : Nat} (h : firstFailure (chunkChecks p rd cur rem) = some (k, c)) :
    ∃ e, chunkAt p rd cur rem = .error e ∧ kindNumber (errorKind e) = BitVec.ofNat 3 k
      ∧ errorCode e = BitVec.ofNat 8 c := by
  obtain ⟨_, -, hfollows⟩ := chunkAt_follows p rd cur rem
  exact hfollows.error k c h

/-- A framed chunk makes the walk shorter (70 R390). -/
theorem roundUp_pos_of_framed (h : firstFailure (chunkChecks p rd cur rem) = none) :
    0 < roundUp (be2 rd (cur + 2)) := by
  obtain ⟨c, hok, hwire⟩ := chunkAt_of_framed h
  have hfour := (chunkAt_wireLen hok).1
  omega

variable {fuel n : Nat}

theorem walkChunks_of_end : walkChunks p rd fuel cur 0 n = .ok n := by
  cases fuel <;> rfl

theorem walkChunks_of_framed (hmore : 0 < rem) (hframed : firstFailure (chunkChecks p rd cur rem) = none) :
    walkChunks p rd (fuel + 1) cur rem n = walkChunks p rd fuel (cur + roundUp (be2 rd (cur + 2)))
      (rem - roundUp (be2 rd (cur + 2))) (n + 1) := by
  obtain ⟨c, hok, hwire⟩ := chunkAt_of_framed hframed
  rw [walkChunks, if_neg hmore.ne', hok, ← hwire]

theorem walkChunks_of_bad {k c : Nat} (hmore : 0 < rem)
    (hbad : firstFailure (chunkChecks p rd cur rem) = some (k, c)) :
    ∃ e, walkChunks p rd (fuel + 1) cur rem n = .error e ∧ kindNumber (errorKind e) = BitVec.ofNat 3 k
      ∧ errorCode e = BitVec.ofNat 8 c := by
  obtain ⟨e, herror, hkc⟩ := chunkAt_of_bad hbad
  exact ⟨e, by rw [walkChunks, if_neg hmore.ne', herror], hkc⟩

/-- The walk that the relation counts is the one the model runs. -/
theorem walkChunks_of_counts {m : Nat} (h : WalkCounts p rd cur rem m) (hfuel : rem ≤ fuel) :
    walkChunks p rd fuel cur rem n = .ok (n + m) := by
  induction h generalizing fuel n with
  | done cur => exact walkChunks_of_end
  | @chunk cur rem m hmore hframed _ ih =>
    obtain ⟨fuel, rfl⟩ := Nat.exists_eq_succ_of_ne_zero (hmore.trans_le hfuel).ne'
    have hpos := roundUp_pos_of_framed hframed
    rw [walkChunks_of_framed hmore hframed, ih (by omega), Nat.add_right_comm, Nat.add_assoc]

/-- The chunk at which the relation fails is the one at which the model's walk does. -/
theorem walkChunks_of_fails {k c : Nat} (h : WalkFails p rd cur rem k c) (hfuel : rem ≤ fuel) :
    ∃ e, walkChunks p rd fuel cur rem n = .error e ∧ kindNumber (errorKind e) = BitVec.ofNat 3 k
      ∧ errorCode e = BitVec.ofNat 8 c := by
  induction h generalizing fuel n with
  | here hmore hbad =>
    obtain ⟨fuel, rfl⟩ := Nat.exists_eq_succ_of_ne_zero (hmore.trans_le hfuel).ne'
    exact walkChunks_of_bad hmore hbad
  | @later cur rem k c hmore hframed _ ih =>
    obtain ⟨fuel, rfl⟩ := Nat.exists_eq_succ_of_ne_zero (hmore.trans_le hfuel).ne'
    have hpos := roundUp_pos_of_framed hframed
    rw [walkChunks_of_framed hmore hframed]
    exact ih (by omega)

end

/-- Every walk ends, by induction on the bytes left (70 R390). -/
theorem walk_counts_or_fails (p : Params) (rd : Nat → Byte) (cur rem : Nat) :
    (∃ n, WalkCounts p rd cur rem n) ∨ ∃ k c, WalkFails p rd cur rem k c := by
  induction rem using Nat.strong_induction_on generalizing cur with
  | _ rem ih =>
    rcases Nat.eq_zero_or_pos rem with rfl | hmore
    · exact .inl ⟨0, .done cur⟩
    · cases hchecks : firstFailure (chunkChecks p rd cur rem) with
      | some kc => exact .inr ⟨kc.1, kc.2, .here hmore hchecks⟩
      | none =>
        have hpos := roundUp_pos_of_framed hchecks
        obtain ⟨n, hn⟩ | ⟨k, c, hkc⟩ := ih (rem - roundUp (be2 rd (cur + 2))) (by omega)
          (cur + roundUp (be2 rd (cur + 2)))
        · exact .inl ⟨n + 1, .chunk hmore hchecks hn⟩
        · exact .inr ⟨k, c, .later hmore hchecks hkc⟩

end Sys2Proof.Machine

/-! ### The header, the CRC and the four commands (44 R253, R254, R256, R258, R262) -/

namespace Sys2Proof.Machine

open Sys2Proof.Spec

/-- The chunk count of 44 R258 is the one register that the columns of 44 R254 do not give. -/
theorem sctpHdrRegs_eq_columns (s : State) (n : Nat) :
    { sctpHdrRegs s.byte (base s) (len s) with r6 := toWord n } = sctpColumns s n := by
  simp only [sctpHdrRegs, halfWord_reg, memRead4_reg]
  rfl

/-- 44 R253 step 1, in front of whatever a command does with the header. -/
theorem sctpHeader_follows {s : State} {r : Rule} {checks : List Check} {d : Done} (h : Follows r checks d) :
    Follows (guardRegion s.params s.ops (if s.ops.len < 12 then .error .sctpHeaderTruncated else r))
      (sctpHeaderChecks s ++ checks) d :=
  .guardRegion (.ite .sctpHeaderTruncated decide_eq_true_iff rfl rfl fun _ => h)

theorem sctpCrcOk_eq_false_iff {rd : Nat → Byte} {b n : Nat} :
    sctpCrcOk rd b n = false ↔ be4 rd (b + 8) ≠ crcOf rd b n 8 := by
  rw [sctpCrcOk, beq_eq_false_iff_ne, Ne, ← BitVec.toNat_inj, memRead4_be4, crc32c_toNat]

/-- 44 R253 steps 1 and 2. -/
theorem sctpPacket_follows {s : State} {r : Rule} {checks : List Check} {d : Done} (h : Follows r checks d) :
    Follows
      (guardRegion s.params s.ops
        (if s.ops.len < 12 then .error .sctpHeaderTruncated
         else if sctpCrcOk s.byte s.ops.base s.ops.len = false then .error .packetChecksumInvalid else r))
      (sctpPacketChecks s ++ checks) d :=
  sctpHeader_follows (.ite .packetChecksumInvalid (bne_iff_ne.trans sctpCrcOk_eq_false_iff.symm) rfl rfl fun _ => h)

theorem sctpHdrParseRule_follows (s : State) :
    Follows (sctpHdrParseRule s.params s.ops s.byte) (sctpHeaderChecks s) { regs := sctpColumns s 0 } := by
  rw [← sctpHdrRegs_eq_columns]
  exact sctpHeader_follows (.nil rfl)

theorem sctpPktCheckRule_follows (s : State) :
    Follows (sctpPktCheckRule s.params s.ops s.byte) (sctpPacketChecks s) { regs := sctpColumns s 0 } := by
  rw [← sctpHdrRegs_eq_columns]
  exact sctpPacket_follows (.nil rfl)

/-- A walk that counts `n` chunks adds no check and gives the count. -/
theorem sctpPktWalkRule_follows_of_counts {s : State} {n : Nat}
    (h : WalkCounts s.params s.byte (base s + 12) (len s - 12) n) :
    Follows (sctpPktWalkRule s.params s.ops s.byte) (sctpPacketChecks s) { regs := sctpColumns s n } := by
  have hwalk : walkChunks s.params s.byte (s.ops.len - 12) (s.ops.base + 12) (s.ops.len - 12) 0 = .ok (0 + n) :=
    walkChunks_of_counts h le_rfl
  rw [sctpPktWalkRule, hwalk, Nat.zero_add, ← sctpHdrRegs_eq_columns]
  exact sctpPacket_follows (.nil rfl)

/-- A walk that fails is one more check, which always fails: there is no result for `d` to be. -/
theorem sctpPktWalkRule_follows_of_fails {s : State} {k c : Nat}
    (h : WalkFails s.params s.byte (base s + 12) (len s - 12) k c) (d : Done) :
    Follows (sctpPktWalkRule s.params s.ops s.byte) (sctpPacketChecks s ++ [(true, k, c)]) d := by
  obtain ⟨e, hwalk, hk, hc⟩ := walkChunks_of_fails (n := 0) h le_rfl
  replace hwalk : walkChunks s.params s.byte (s.ops.len - 12) (s.ops.base + 12) (s.ops.len - 12) 0 = .error e := hwalk
  rw [sctpPktWalkRule, hwalk]
  exact sctpPacket_follows (.cons e hk hc (fun _ => rfl) fun hpass => absurd rfl hpass)

/-- The CRC comes before the chunks: where a check of the packet fails, the walk makes no difference. -/
theorem exec_sctpPktWalk_of_packetChecks {s : State} {k c : Nat}
    (h : firstFailure (sctpPacketChecks s) = some (k, c)) : exec .sctpPktWalk s = .next (errState s k c) := by
  obtain ⟨n, hcounts⟩ | ⟨k', c', hfails⟩ := walk_counts_or_fails s.params s.byte (base s + 12) (len s - 12)
  · exact (complete_of_follows (sctpPktWalkRule_follows_of_counts hcounts)).2 k c h
  · exact (complete_of_follows (sctpPktWalkRule_follows_of_fails hfails {})).2 k c (firstFailure_append_of_some h)

theorem exec_sctpPktWalk_of_fails {s : State} {k c : Nat} (hpacket : firstFailure (sctpPacketChecks s) = none)
    (h : WalkFails s.params s.byte (base s + 12) (len s - 12) k c) :
    exec .sctpPktWalk s = .next (errState s k c) :=
  (complete_of_follows (sctpPktWalkRule_follows_of_fails h {})).2 k c (firstFailure_append_of_none hpacket)

/-- The byte of a register from bit `k` on. -/
theorem extractByte_reg (n : Nat) {k : Nat} (hk : k ≤ 24) : (reg n).extractLsb' k 8 = octet (n / 2 ^ k) := by
  refine BitVec.eq_of_getLsbD_eq fun i hi => ?_
  have hinside : i + k < 32 := by omega
  rw [BitVec.getLsbD_extractLsb', reg, octet, BitVec.getLsbD_ofNat, BitVec.getLsbD_ofNat, Nat.testBit_div_two_pow,
    Nat.add_comm k i]
  simp [hinside]

theorem octet_mod (n : Nat) : octet (n % 256) = octet n := BitVec.eq_of_toNat_eq (by simp [octet])

/-- A number stored as four bytes, most significant first (00 R10). -/
theorem cells4_reg (a n : Nat) :
    cells4 a (reg n) = [(a, octet (n / 16777216)), (a + 1, octet (n / 65536 % 256)),
      (a + 2, octet (n / 256 % 256)), (a + 3, octet (n % 256))] := by
  rw [cells4, extractByte_reg n (by decide), extractByte_reg n (by decide), extractByte_reg n (by decide),
    extractByte_reg n (by decide), octet_mod, octet_mod, octet_mod, Nat.pow_zero, Nat.div_one]
  rfl

theorem sctpCsumPatchRule_follows (s : State) :
    Follows (sctpCsumPatchRule s.params s.ops s.byte) (sctpHeaderChecks s)
      { regs := { r0 := reg (crcOf s.byte (base s) (len s) 8) },
        stores := cells4 (base s + 8) (reg (crcOf s.byte (base s) (len s) 8)) } := by
  rw [← crc32c_reg]
  exact sctpHeader_follows (.nil rfl)

end Sys2Proof.Machine

namespace Sys2Proof.Proofs

open Sys2Proof.Machine Sys2Proof.Spec

/-- Settles O34: the rule follows its two checks, and the checksum is one more column. -/
theorem sctpHdrParseResult : Obligations.SctpHdrParseResult :=
  ⟨decodeCommand_of_commandWord rfl, fun s => complete_of_follows (sctpHdrParseRule_follows s)⟩

/-- Settles O35: the rule follows its three checks, and the columns are those of the header. -/
theorem sctpPktCheckResult : Obligations.SctpPktCheckResult :=
  ⟨decodeCommand_of_commandWord rfl, fun s => complete_of_follows (sctpPktCheckRule_follows s)⟩

/-- Settles O36: the checks of the packet, then the outcome of the walk, of which there always is one. -/
theorem sctpPktWalkResult : Obligations.SctpPktWalkResult :=
  ⟨decodeCommand_of_commandWord rfl, fun s =>
    ⟨fun _ _ => exec_sctpPktWalk_of_packetChecks,
      fun _ hpacket hcounts => (complete_of_follows (sctpPktWalkRule_follows_of_counts hcounts)).1 hpacket,
      fun _ _ => exec_sctpPktWalk_of_fails,
      walk_counts_or_fails s.params s.byte (base s + 12) (len s - 12)⟩⟩

/-- Settles O37: the rule follows its two checks, and a completion makes its four stores. -/
theorem sctpCsumPatchResult : Obligations.SctpCsumPatchResult := by
  refine ⟨decodeCommand_of_commandWord rfl, fun s => ?_⟩
  obtain ⟨hok, herror⟩ := complete_of_follows (sctpCsumPatchRule_follows s)
  rw [cells4_reg] at hok
  exact ⟨hok, herror⟩

end Sys2Proof.Proofs

/-! # The chunk framing commands (45_chunk_framing.md R281, R282, R284, R288, R290)

`SCTP.CHUNK.NEXT` reads the type it looks up from `BUF` and `SCTP.CHUNK.FRAME` takes it from `A2`. For both, a known
type gives a result that depends on the kind, and an unknown type is a failing check. -/

namespace Sys2Proof.Machine

open Sys2Proof.Spec

theorem chunkKindNumber_eq_kindColumn (kind : ChunkKind) : chunkKindNumber kind = kindColumn kind := by
  cases kind <;> rfl

/-- The completion of a rule that looks a chunk type up: its result is that of the kind found, and where the type is
unknown one of the checks has failed. -/
theorem complete_of_follows_lookup {s : State} {r : Rule} {checks : List Check} {lookup : Option ChunkKind}
    {d : ChunkKind → Done} (hknown : ∀ kind, lookup = some kind → Follows r checks (d kind))
    (hunknown : lookup = none → ∀ d', Follows r checks d') :
    (∀ kind, firstFailure checks = none → lookup = some kind →
      complete s r = .next (okState s (d kind).regs (d kind).stores))
    ∧ ∀ k c, firstFailure checks = some (k, c) → complete s r = .next (errState s k c) := by
  refine ⟨fun kind hpass hkind => (complete_of_follows (hknown kind hkind)).1 hpass, fun k c hfail => ?_⟩
  cases hlookup : lookup with
  | none => exact (complete_of_follows (hunknown hlookup {})).2 k c hfail
  | some kind => exact (complete_of_follows (hknown kind hlookup)).2 k c hfail

/-! ### `PAD.ALIGN4` (45 R282) -/

/-- The largest multiple of 4 that 32 bits hold is where the one check begins to fail. -/
theorem padAlign4Rule_follows (s : State) :
    Follows (padAlign4Rule s.ops) [(decide (0xFFFFFFFC < len s), 7, 0x01)]
      { regs := { r0 := reg (roundUp (len s)), r1 := reg (roundUp (len s) - len s) } } := by
  rw [roundUp_sub, roundUp_eq]
  exact .ite .operandRange decide_eq_true_iff rfl rfl fun _ => .nil rfl

/-! ### `SCTP.CHUNK.NEXT` (45 R284) -/

theorem sctpChunkNextRule_eq_bind (p : Params) (o : Operands) (rd : Nat → Byte) :
    sctpChunkNextRule p o rd = guardRegion p o
      ((chunkAt p rd o.base o.len).bind fun c => .ok { regs := chunkRegs o.base o.len c }) := by
  unfold sctpChunkNextRule
  cases chunkAt p rd o.base o.len <;> rfl

/-- What the framing of the chunk follows, the command follows, its layout being made of a chunk that fits. -/
theorem sctpChunkNextRule_follows {s : State} {c : Chunk}
    (h : Follows (chunkAt s.params s.byte (base s) (len s)) (chunkChecks s.params s.byte (base s) (len s)) c) :
    Follows (sctpChunkNextRule s.params s.ops s.byte)
      (rangeCheck s :: chunkChecks s.params s.byte (base s) (len s))
      { regs := chunkColumns (base s) (len s) c.type.toNat c.flags.toNat c.length (kindColumn c.kind) } := by
  rw [sctpChunkNextRule_eq_bind, ← List.append_nil (chunkChecks _ _ _ _)]
  refine .guardRegion (h.bind fun hframed => .nil ?_)
  rw [chunkRegs_eq_columns s.ops.base s.ops.len (chunkAt_wireLen hframed).2, chunkKindNumber_eq_kindColumn]
  rfl

/-- At an unknown type the framing fails in one of its checks, and so does the command: there is no result for `d`
to be. -/
theorem sctpChunkNextRule_follows_of_none {s : State}
    (h : chunkKindOf s.params.chunkTypes (s.byte (base s)) = none) (d : Done) :
    Follows (sctpChunkNextRule s.params s.ops s.byte)
      (rangeCheck s :: chunkChecks s.params s.byte (base s) (len s)) d := by
  rw [sctpChunkNextRule_eq_bind, ← List.append_nil (chunkChecks _ _ _ _)]
  refine .guardRegion ((chunkAt_follows_of_none h (s.chunkOf .data)).bind fun hframed => ?_)
  obtain ⟨-, hknown, -⟩ := chunkAt_ok_iff.1 hframed
  rw [h] at hknown
  cases hknown

/-! ### `SCTP.CHUNK.FRAME`: the fields of `A2` and the stores (45 R290) -/

theorem octet_toNat {n : Nat} (h : n < 256) : (octet n).toNat = n := Nat.mod_eq_of_lt h

theorem frameType_octet (s : State) : s.ops.frameType = octet (frameType s) :=
  BitVec.eq_of_toNat_eq (by simp [octet, frameType, BitVec.extractLsb'_toNat, Nat.shiftRight_eq_div_pow])

theorem frameFlags_octet (s : State) : s.ops.frameFlags = octet (frameFlags s) :=
  BitVec.eq_of_toNat_eq (by simp [octet, frameFlags, BitVec.extractLsb'_toNat])

theorem frameUpper_ne_zero_iff (s : State) : s.ops.frameUpper ≠ 0#16 ↔ s.ops.a2.toNat / 65536 ≠ 0 := by
  have hword : s.ops.a2.toNat < 4294967296 := s.ops.a2.isLt
  have hupper : s.ops.frameUpper.toNat = s.ops.a2.toNat / 65536 := by
    rw [BitVec.extractLsb'_toNat, Nat.shiftRight_eq_div_pow]
    omega
  rw [Ne, ← BitVec.toNat_inj, hupper]
  rfl

theorem zeroCells_eq_map (a n : Nat) : zeroCells a n = (List.range n).map fun i => (a + i, 0#8) := by
  induction n generalizing a with
  | zero => rfl
  | succ n ih =>
    rw [zeroCells, ih, List.range_succ_eq_map, List.map_cons, List.map_map]
    refine congrArg _ (List.map_congr_left fun i _ => ?_)
    exact congrArg (·, 0#8) (Nat.add_right_comm a 1 i)

/-- The chunk that the operands describe, as one of kind `kind` (45 R290). -/
def State.frameChunk (s : State) (kind : ChunkKind) : Chunk :=
  { type := octet (frameType s), flags := octet (frameFlags s), length := frameLength s, kind := kind }

theorem frameCells_eq_stores (s : State) (kind : ChunkKind) :
    frameCells (base s) (s.frameChunk kind) = frameStores s := by
  rw [frameCells, State.frameChunk, cells2_ofNat, zeroCells_eq_map, ← roundUp_sub]
  rfl

theorem chunkRegs_frameChunk {s : State} {kind : ChunkKind} (h : roundUp (frameLength s) ≤ len s) :
    chunkRegs (base s) (len s) (s.frameChunk kind)
      = chunkColumns (base s) (len s) (frameType s) (frameFlags s) (frameLength s) (kindColumn kind) := by
  have hwire : chunkWireLen (s.frameChunk kind) ≤ len s := (roundUp_eq (frameLength s)).symm.trans_le h
  have htype : (s.frameChunk kind).type.toNat = frameType s := octet_toNat (Nat.mod_lt _ (by decide))
  have hflags : (s.frameChunk kind).flags.toNat = frameFlags s := octet_toNat (Nat.mod_lt _ (by decide))
  rw [chunkRegs_eq_columns _ _ hwire, htype, hflags, chunkKindNumber_eq_kindColumn]
  rfl

/-! ### `SCTP.CHUNK.FRAME`: the checks (45 R290) -/

theorem sctpChunkFrameRule_follows_of_some {s : State} {kind : ChunkKind}
    (h : chunkKindOf s.params.chunkTypes (octet (frameType s)) = some kind) :
    Follows (sctpChunkFrameRule s.params s.ops) (frameChecks s)
      { regs := chunkColumns (base s) (len s) (frameType s) (frameFlags s) (frameLength s) (kindColumn kind),
        stores := frameStores s } := by
  rw [sctpChunkFrameRule, frameChecks, frameType_octet, frameFlags_octet, h, lengthAllowed_of_known h]
  refine .guardRegion (.ite .operandRange (bne_iff_ne.trans (frameUpper_ne_zero_iff s).symm) rfl rfl fun _ =>
    .cons .chunkTypeInvalid rfl rfl (fun hunknown => by cases hunknown) fun _ =>
    .ite .chunkValueTooLong decide_eq_true_iff rfl rfl fun _ =>
    .ite .chunkLengthInvalid (iff_of_eq (Bool.not_eq_true' _)) rfl rfl fun _ => ?_)
  rw [← roundUp_eq]
  refine .ite .chunkOverrun decide_eq_true_iff rfl rfl fun hfits => .nil ?_
  rw [← chunkRegs_frameChunk (Nat.not_lt.1 hfits), ← frameCells_eq_stores s kind]
  rfl

/-- At an unknown type some check fails: there is no result for `d` to be. -/
theorem sctpChunkFrameRule_follows_of_none {s : State}
    (h : chunkKindOf s.params.chunkTypes (octet (frameType s)) = none) (d : Done) :
    Follows (sctpChunkFrameRule s.params s.ops) (frameChecks s) d := by
  rw [sctpChunkFrameRule, frameChecks, frameType_octet, h]
  exact .guardRegion (.ite .operandRange (bne_iff_ne.trans (frameUpper_ne_zero_iff s).symm) rfl rfl fun _ =>
    .cons .chunkTypeInvalid rfl rfl (fun _ => rfl) fun hknown => absurd rfl hknown)

end Sys2Proof.Machine

namespace Sys2Proof.Proofs

open Sys2Proof.Machine Sys2Proof.Spec

/-- Settles O25: the rule makes one check, which fails exactly above `0xFFFFFFFC`. -/
theorem padAlign4Result : Obligations.PadAlign4Result := by
  refine ⟨decodeCommand_of_commandWord rfl, fun s => ?_⟩
  obtain ⟨hok, herror⟩ := complete_of_follows (padAlign4Rule_follows s)
  refine ⟨fun hle => hok ?_, fun hgt => herror 7 0x01 (firstFailure_cons_true (decide_eq_true hgt))⟩
  exact firstFailure_cons_false (mt decide_eq_true_iff.1 (Nat.not_lt.2 hle))

/-- Settles O38: the range check and the framing of one chunk, laid out in the registers. -/
theorem sctpChunkNextResult : Obligations.SctpChunkNextResult :=
  ⟨decodeCommand_of_commandWord rfl, fun _ =>
    complete_of_follows_lookup (fun _ hkind => sctpChunkNextRule_follows (chunkAt_follows_of_some hkind))
      sctpChunkNextRule_follows_of_none⟩

/-- Settles O39: the rule follows its six checks, and a completion stores the header and the padding. -/
theorem sctpChunkFrameResult : Obligations.SctpChunkFrameResult :=
  ⟨decodeCommand_of_commandWord rfl, fun _ =>
    complete_of_follows_lookup (fun _ => sctpChunkFrameRule_follows_of_some) sctpChunkFrameRule_follows_of_none⟩

end Sys2Proof.Proofs

/-! # The system commands (46_system.md R321, R322, R324)

`NOP` is a completion with nothing in it, `SRST` a completion of its own. An illegal value is accepted like a command; its
completion is the rejecting branch of the fetch, since exactly the 18 opcodes decode. -/

namespace Sys2Proof.Machine

open Sys2Proof.Spec

/-- Completion without error, as the statements write it (60 R340). -/
theorem succeed_eq_okState (s : State) (d : Done) : succeed s d = okState s d.regs d.stores := rfl

/-- `STATUS` as the host reads it right after a reset (10 R31, R43). -/
theorem Status.word_default : ({} : Status).word = 0#32 := by decide

/-- A pending value that is none of the 18 opcodes completes with the error of 46 R324. -/
theorem completePending_of_illegal {s : State} (h : s.pending.toNat ∉ opcodes) :
    completePending s = .next (raiseError s .illegalCommand) := by
  obtain ⟨i, hdecode, -⟩ | ⟨_, -, hcomplete⟩ := completePending_cases s
  · exact absurd ((Proofs.legalCommandWords s.pending).1 ⟨i, hdecode⟩) h
  · exact hcomplete

end Sys2Proof.Machine

namespace Sys2Proof.Proofs

open Sys2Proof.Machine Sys2Proof.Spec

/-- Settles O20: the host's step accepts the value, the block's step raises the error on the state accepted. -/
theorem illegalCommandCompletes : Obligations.IllegalCommandCompletes := by
  intro s v hidle hagenda hillegal
  rw [runSteps_succ (step_accepts hidle hagenda), runSteps_succ]
  · rfl
  · exact (step_of_block_busy rfl rfl).trans (completePending_of_illegal hillegal)

/-- Settles O18: the completion of a rule that delivers no result value and no store. -/
theorem nopCompletes : Obligations.NopCompletes := by
  refine ⟨decodeCommand_of_commandWord rfl, fun s => ?_⟩
  rw [exec_eq, ← succeed_eq_okState s {}]
  exact complete_ok s {}

/-- Settles O19: the row without a rule is a soft reset, which leaves every byte of `BUF`. -/
theorem srstClearsRegisters : Obligations.SrstClearsRegisters :=
  ⟨decodeCommand_of_commandWord rfl, fun s =>
    ⟨softReset s, exec_eq .srst s, softReset_ops s, softReset_res s, Status.word_default, softReset_pending s,
      byte_softReset s, rfl⟩⟩

end Sys2Proof.Proofs

/-! # Acceptance, completion and error (60_exceptions.md R332, R339, R340, R341)

The two ends of a command, the accepting write and the completing step, and what an error leaves: of the three ways a row
can end, `raiseError` alone sets `DONE` without `OK`. -/

namespace Sys2Proof.Machine

open Sys2Proof.Spec

/-- A pending word that is a command's completes as that command (60 R340). -/
theorem completePending_of_decode {s : State} {i : Instr} (h : decodeCommand s.pending = .ok i) :
    completePending s = exec i s := by
  rw [completePending, fetchCommand, h]

theorem step_of_wait_busy_completes {s : State} {rest : List Turn} (h : s.agenda = .wait :: rest)
    (hb : s.status.busy = true) : step s = completePending s :=
  (step_of_wait_busy h hb).trans (blockTurn_busy hb)

/-- The model's kind and code of each cause are its row of the table of 60 R332. -/
theorem kind_code_mem_errorPairs (e : CmdError) :
    ((kindNumber (errorKind e)).toNat, (errorCode e).toNat) ∈ errorPairs := by
  cases e <;> decide

/-- A row that ends with `DONE` set and `OK` clear has raised an error: `SRST` clears `DONE`, and a rule that runs to its
end sets `OK` (60 R340, 46 R322). -/
theorem exec_eq_raiseError_of_failed {i : Instr} {s t : State} (h : exec i s = .next t)
    (hdone : t.status.done = true) (hok : t.status.ok = false) : ∃ e, t = raiseError s e := by
  obtain ⟨-, rfl⟩ | ⟨d, -, rfl⟩ | ⟨e, -, rfl⟩ := exec_next_cases h
  · rw [softReset_status] at hdone
    cases hdone
  · rw [succeed_status, Status.succeeded_ok] at hok
    cases hok
  · exact ⟨e, rfl⟩

end Sys2Proof.Machine

namespace Sys2Proof.Proofs

open Sys2Proof.Machine Sys2Proof.Spec

/-- Settles O47: the end is `raiseError` of some cause, which sets the results to 0 and writes nothing but `STATUS`. -/
theorem errorsArePrecise : Obligations.ErrorsArePrecise := by
  intro i s t hexec hdone hok
  obtain ⟨e, rfl⟩ := exec_eq_raiseError_of_failed hexec hdone hok
  exact ⟨raiseError_res s e, raiseError_buf s e, byte_raiseError s e, raiseError_ops s e, kind_code_mem_errorPairs e⟩

/-- Settles O5: at each of the three turns a busy block completes `PENDING`. -/
theorem stepRunsPendingCommand : Obligations.StepRunsPendingCommand := by
  intro s i hbusy hdecode
  refine ⟨fun h => ?_, fun rest h => ?_, fun rest h => ?_⟩
  · exact (step_of_nil_busy h hbusy).trans (completePending_of_decode hdecode)
  · exact (step_of_block_busy h hbusy).trans (completePending_of_decode hdecode)
  · exact (step_of_wait_busy_completes h hbusy).trans (completePending_of_decode hdecode)

/-- Settles O11: an idle block accepts the write, a busy one drops it. -/
theorem acceptanceWrites : Obligations.AcceptanceWrites := by
  intro s v rest h
  refine ⟨fun hidle => step_accepts hidle h, fun hbusy => ?_⟩
  exact step_of_write32 h (by decide) (writeReg_busy v hbusy (by decide))

end Sys2Proof.Proofs

/-! # The bounded completion of an accepted command (70_reset_and_hazards.md R390)

Each turn of the agenda either ends the command, by its completion or by a hardware reset, or is an access that leaves the
block busy and the agenda one turn shorter. -/

namespace Sys2Proof.Machine

open Sys2Proof.Spec

/-- The turn of a busy block ends its command, whatever `PENDING` is (60 R340, 46 R324). -/
theorem blockTurn_busy_answers {s : State} (hb : s.status.busy = true) :
    ∃ t, blockTurn s = .next t ∧ t.status.busy = false := by
  rw [blockTurn_busy hb]
  obtain ⟨i, -, hcomplete⟩ | ⟨_, -, hcomplete⟩ := completePending_cases s
  · obtain ⟨t, hexec, hidle, -⟩ := exec_answers i s
    exact ⟨t, hcomplete.trans hexec, hidle⟩
  · exact ⟨_, hcomplete, rfl⟩

/-- One turn of a busy block leaves it idle, or is an access and leaves it busy with the turns after it. -/
theorem step_busy_cases {s : State} (hb : s.status.busy = true) (hport : s.agendaOnPort) :
    (∃ t, step s = .next t ∧ t.status.busy = false)
      ∨ ∃ a rest t, s.agenda = .access a :: rest ∧ step s = .next t ∧ t.status.busy = true ∧ t.agenda = rest := by
  obtain ⟨-, hstep⟩ | ⟨rest, -, hstep⟩ | ⟨rest, -, -, hstep⟩ | ⟨rest, -, hidle, -⟩ | ⟨a, rest, hagenda, hstep⟩
    | ⟨rest, -, hstep⟩ := step_cases s
  · rw [hstep]
    exact .inl (blockTurn_busy_answers hb)
  · rw [hstep]
    exact .inl (blockTurn_busy_answers (s := { s with agenda := rest }) hb)
  · rw [hstep]
    exact .inl (blockTurn_busy_answers hb)
  · rw [hb] at hidle
    cases hidle
  · have ha : a.onPort = true := hport a (hagenda ▸ List.mem_cons_self)
    obtain ⟨ovr, received, haccess⟩ := hostAccess_busy (s := { s with agenda := rest }) ha hb
    exact .inr ⟨a, rest, _, hagenda, hstep.trans haccess, hb, rfl⟩
  · exact .inl ⟨_, hstep, rfl⟩

end Sys2Proof.Machine

namespace Sys2Proof.Proofs

open Sys2Proof.Machine Sys2Proof.Spec

/-- Settles O60, by induction on the agenda: a turn that does not end the command uses up one access. -/
theorem acceptedCommandCompletes : Obligations.AcceptedCommandCompletes := by
  intro s hb hport
  induction hagenda : s.agenda generalizing s with
  | nil =>
    obtain ⟨t, hstep, hidle⟩ | ⟨a, rest, t, hcons, -⟩ := step_busy_cases hb hport
    · exact ⟨1, t, by omega, runSteps_succ hstep, hidle⟩
    · rw [hagenda] at hcons
      cases hcons
  | cons turn rest ih =>
    obtain ⟨t, hstep, hidle⟩ | ⟨a, rest', t, hcons, hstep, hbusy, hrest⟩ := step_busy_cases hb hport
    · exact ⟨1, t, by omega, runSteps_succ hstep, hidle⟩
    · rw [hagenda] at hcons
      cases hcons
      have hport' : t.agendaOnPort := fun a ha => hport a (hagenda ▸ List.mem_cons_of_mem _ (hrest ▸ ha))
      obtain ⟨k, u, hk, hrun, hidle⟩ := ih t hbusy hport' hrest
      exact ⟨k + 1, u, by rw [List.length_cons]; omega, (runSteps_succ hstep).trans hrun, hidle⟩

end Sys2Proof.Proofs

/-! # The laws of the one's-complement checksum (40_ones_complement.md R146, R148)

A validation asks for a positive multiple of 65535. One changed byte moves the sum by less than that, and the field that
completes the rest to such a multiple is the recomputed one, but where the rest is itself one. -/

namespace Sys2Proof.Spec

open Sys2Proof.Machine

/-- The sum without a word does not depend on its two bytes (40 R147). -/
theorem wordSumWithout_congr {rd rd' : Nat → Byte} {b n z : Nat} (hz : z % 2 = 0)
    (h : ∀ a, a ≠ b + z → a ≠ b + z + 1 → rd' a = rd a) : wordSumWithout rd' b n z = wordSumWithout rd b n z := by
  refine congrArg List.sum (List.map_congr_left fun k _ => if_ctx_congr Iff.rfl (fun _ => rfl) fun hk => ?_)
  rw [be2, be2, h (b + 2 * k) (by omega) (by omega), h (b + 2 * k + 1) (by omega) (by omega)]

theorem checksumWithout_congr {rd rd' : Nat → Byte} {b n z : Nat} (hz : z % 2 = 0)
    (h : ∀ a, a ≠ b + z → a ≠ b + z + 1 → rd' a = rd a) : checksumWithout rd' b n z = checksumWithout rd b n z := by
  rw [checksumWithout, checksumWithout, wordSumWithout_congr hz h]

theorem checksumWithout_lt (rd : Nat → Byte) (b n z : Nat) : checksumWithout rd b n z < 65536 :=
  Nat.lt_succ_of_le (Nat.sub_le _ _)

end Sys2Proof.Spec

namespace Sys2Proof.Machine

open Sys2Proof.Spec

theorem fold_eq_ones_iff {S : Nat} (h : S < 2 ^ 32) : fold S = 0xFFFF ↔ 0 < S ∧ S % 65535 = 0 := by
  have hle := fold_le h
  have hmod := fold_mod S
  have hzero := fold_eq_zero_iff (S := S)
  omega

theorem wordSum_lt {n : Nat} (rd : Nat → Byte) (b : Nat) (hn : n ≤ 65536) : wordSum rd b n < 2 ^ 32 :=
  ocSum_eq rd b n ▸ ocSum_lt rd b hn

theorem ocVal_iff {rd : Nat → Byte} {b n : Nat} (hn : n ≤ 65536) :
    ocVal rd b n = true ↔ 0 < wordSum rd b n ∧ wordSum rd b n % 65535 = 0 := by
  rw [ocVal, beq_iff_eq, ocSum_eq, fold_eq_ones_iff (wordSum_lt rd b hn)]

/-- A changed byte changes the sum by at least 1 and at most 255 times 256. -/
theorem wordSum_mod_ne_of_byte_ne {rd rd' : Nat → Byte} {b n i : Nat} (hn : n % 2 = 0) (hi : i < n)
    (hsame : ∀ x, x ≠ b + i → rd' x = rd x) (hchanged : rd' (b + i) ≠ rd (b + i)) :
    wordSum rd' b n % 65535 ≠ wordSum rd b n % 65535 := by
  have hrest : wordSumWithout rd' b n (2 * (i / 2)) = wordSumWithout rd b n (2 * (i / 2)) :=
    wordSumWithout_congr (by omega) fun a _ _ => hsame a (by omega)
  have hbyte : (rd' (b + i)).toNat ≠ (rd (b + i)).toNat := mt BitVec.eq_of_toNat_eq hchanged
  have hlt := (rd (b + i)).isLt
  have hlt' := (rd' (b + i)).isLt
  rw [wordSum_split (by omega) (by omega : 2 * (i / 2) + 2 ≤ n),
    wordSum_split (by omega) (by omega : 2 * (i / 2) + 2 ≤ n), hrest, be2, be2]
  obtain heven | hodd := Nat.mod_two_eq_zero_or_one i
  · rw [show b + 2 * (i / 2) = b + i by omega, hsame (b + i + 1) (by omega)]
    omega
  · rw [show b + 2 * (i / 2) + 1 = b + i by omega, hsame (b + 2 * (i / 2)) (by omega)]
    omega

end Sys2Proof.Machine

namespace Sys2Proof.Proofs

open Sys2Proof.Machine Sys2Proof.Spec

/-- Settles O49: the sum of the changed region is no multiple of 65535, since that of the region is one. -/
theorem singleBitFailsOneComplement : Obligations.SingleBitFailsOneComplement := by
  intro rd rd' b n a j hn hmax hlo hhi hflip hval
  have hchanged := ne_of_flippedBit hflip
  obtain ⟨-, -, hsame⟩ := hflip
  obtain ⟨i, rfl⟩ := Nat.exists_eq_add_of_le hlo
  have hmod := wordSum_mod_ne_of_byte_ne hn (by omega) hsame hchanged
  rw [((ocVal_iff hmax).1 hval).2] at hmod
  exact Bool.eq_false_iff.2 fun hval' => hmod ((ocVal_iff hmax).1 hval').2

/-- Settles O50: both tests compare the field with what completes the rest, modulo 65535, to zero. -/
theorem recomputeVersusValidate : Obligations.RecomputeVersusValidate := by
  intro rd b n z hn hz hroom hmax rest field
  have hsplit : wordSum rd b n = wordSumWithout rd b n z + field := wordSum_split hz hroom
  have hsum := wordSum_lt rd b hmax
  have hle : rest ≤ 0xFFFF := fold_le (by omega)
  have hmod : rest % 65535 = wordSumWithout rd b n z % 65535 := fold_mod _
  have hzero : rest = 0 ↔ wordSumWithout rd b n z = 0 := fold_eq_zero_iff
  have hfield : field < 65536 := be2_lt rd (b + z)
  have hgen : ocGenZ rd b n z = 0xFFFF - rest := ocGenZ_eq hz hroom
  rw [ocVal_iff hmax, hsplit, hgen]
  omega

end Sys2Proof.Proofs

/-! # The CRC table (41_crc32c.md R161) -/

namespace Sys2Proof.Machine

open Sys2Proof.Spec

theorem crcEntries_eq_printed : (List.range 256).map crcEntry = printedCrcTable := by decide +kernel

end Sys2Proof.Machine

namespace Sys2Proof.Proofs

open Sys2Proof.Machine Sys2Proof.Spec

/-- Settles O51: the entries as numbers, compared with the printed list as a whole. -/
theorem crcTableAsPrinted : Obligations.CrcTableAsPrinted := by
  intro i
  have hbyte : (BitVec.ofNat 8 i.val).toNat = i.val := Nat.mod_eq_of_lt i.isLt
  rw [crcTable_toNat, hbyte, ← crcEntries_eq_printed]
  simp

end Sys2Proof.Proofs

/-! # Round trips (42 R191, 43 R223, 44 R263, 45 R290, R291)

A command that succeeds has passed its checks, and the state it leaves is known; the checks of the other command of the
pair are then read off that state. For the latter it is enough to know two things of a list of stores: a stored field
reads back as the value stored, and storing what a field already holds leaves every byte as it is. -/

/-! ### Checks that pass (60 R340, R345) -/

namespace Sys2Proof.Machine

open Sys2Proof.Spec

@[simp] theorem firstFailure_nil : firstFailure [] = none := rfl

theorem firstFailure_cons_eq_none_iff {failed : Bool} {k c : Nat} {checks : List Check} :
    firstFailure ((failed, k, c) :: checks) = none ↔ ¬failed = true ∧ firstFailure checks = none := by
  cases failed <;> simp [firstFailure]

theorem firstFailure_append_eq_none_iff {checks checks' : List Check} :
    firstFailure (checks ++ checks') = none ↔ firstFailure checks = none ∧ firstFailure checks' = none := by
  induction checks with
  | nil => simp
  | cons check checks ih =>
    obtain ⟨failed, k, c⟩ := check
    rw [List.cons_append, firstFailure_cons_eq_none_iff, firstFailure_cons_eq_none_iff, ih, and_assoc]

/-- A command that completes with `OK` set has passed its checks and left its result. -/
theorem Follows.of_completes_ok {s t : State} {r : Rule} {checks : List Check} {d : Done} (h : Follows r checks d)
    (ht : complete s r = .next t) (hok : t.status.ok = true) :
    firstFailure checks = none ∧ t = okState s d.regs d.stores := by
  obtain ⟨hpass, hfail⟩ := complete_of_follows (s := s) h
  cases hchecks : firstFailure checks with
  | none =>
    rw [hpass hchecks] at ht
    cases ht
    exact ⟨rfl, rfl⟩
  | some kc =>
    rw [hfail kc.1 kc.2 hchecks] at ht
    cases ht
    cases hok

/-- A command whose checks pass completes with its result, and `OK` is set. -/
theorem Follows.completes {s : State} {r : Rule} {checks : List Check} {d : Done} (h : Follows r checks d)
    (hpass : firstFailure checks = none) : complete s r = .next (okState s d.regs d.stores) :=
  (complete_of_follows h).1 hpass

/-! ### Bytes after a list of stores -/

/-- A list of stores leaves an offset alone, or one of the stores to it is what it then reads. -/
theorem Memory.read_writeAll_cases (cs : List Host.Cell) (x : Nat) (m : Memory) :
    Memory.read (Memory.writeAll m cs) x = Memory.read m x
      ∨ ∃ c ∈ cs, c.1 = x ∧ Memory.read (Memory.writeAll m cs) x = some c.2 := by
  induction cs generalizing m with
  | nil => exact .inl rfl
  | cons c cs ih =>
    rw [Memory.writeAll_cons]
    obtain hkept | ⟨d, hd, hdx, hread⟩ := ih (Memory.write m c.1 c.2)
    · by_cases hx : x = c.1
      · subst hx
        exact .inr ⟨c, List.mem_cons_self, rfl, hkept.trans (Memory.read_write_same m c.1 c.2)⟩
      · exact .inl (hkept.trans (Memory.read_write_ne m c.2 hx))
    · exact .inr ⟨d, List.mem_cons_of_mem _ hd, hdx, hread⟩

/-- A completion leaves a byte alone, or one of the stores to it is what it then holds. -/
theorem byte_okState_cases (s : State) (regs : Results) (cs : List Host.Cell) (x : Nat) :
    (okState s regs cs).byte x = s.byte x ∨ ∃ c ∈ cs, c.1 = x ∧ (okState s regs cs).byte x = c.2 := by
  obtain hkept | ⟨c, hc, hcx, hread⟩ := Memory.read_writeAll_cases cs x s.buf
  · exact .inl (by simp only [State.byte, okState, hkept])
  · exact .inr ⟨c, hc, hcx, by simp only [State.byte, okState, hread]⟩

theorem byte_okState_of_not_mem {s : State} {regs : Results} {cs : List Host.Cell} {x : Nat}
    (hx : ∀ c ∈ cs, c.1 ≠ x) : (okState s regs cs).byte x = s.byte x :=
  byte_succeed_of_not_mem (d := { regs := regs, stores := cs }) hx

theorem byte_okState_store {s : State} {regs : Results} {cs ds : List Host.Cell} {a : Nat} {v : Byte}
    (hd : ∀ c ∈ ds, c.1 ≠ a) : (okState s regs (cs ++ (a, v) :: ds)).byte a = v :=
  byte_succeed_store hd

/-- Stores one after the other, as two completions. -/
theorem okState_append (s : State) (regs : Results) (cs ds : List Host.Cell) :
    okState s regs (cs ++ ds) = okState (okState s regs cs) regs ds := by
  simp [okState, Memory.writeAll]

/-- Stores of what the bytes already hold change no byte. -/
theorem byte_okState_of_held {s : State} {regs : Results} {cs : List Host.Cell} (h : ∀ c ∈ cs, c.2 = s.byte c.1)
    (x : Nat) : (okState s regs cs).byte x = s.byte x := by
  obtain hkept | ⟨c, hc, rfl, hstored⟩ := byte_okState_cases s regs cs x
  · exact hkept
  · exact hstored.trans (h c hc)

/-! ### Two and four stored bytes (00 R10) -/

theorem be2_okState_cells2 (s : State) (regs : Results) (a : Nat) (v : Half) :
    be2 (okState s regs (cells2 a v)).byte a = v.toNat := by
  have hhigh : (okState s regs (cells2 a v)).byte a = v.extractLsb' 8 8 :=
    byte_okState_store (cs := []) (by simp)
  have hlow : (okState s regs (cells2 a v)).byte (a + 1) = v.extractLsb' 0 8 :=
    byte_okState_store (cs := [(a, v.extractLsb' 8 8)]) (by simp)
  rw [← memRead2_be2, memRead2, hhigh, hlow, append_extract2]

theorem be4_okState_cells4 (s : State) (regs : Results) (a : Nat) (v : Word) :
    be4 (okState s regs (cells4 a v)).byte a = v.toNat := by
  have h₀ : (okState s regs (cells4 a v)).byte a = v.extractLsb' 24 8 :=
    byte_okState_store (cs := []) (by simp)
  have h₁ : (okState s regs (cells4 a v)).byte (a + 1) = v.extractLsb' 16 8 :=
    byte_okState_store (cs := (cells4 a v).take 1) (by simp)
  have h₂ : (okState s regs (cells4 a v)).byte (a + 2) = v.extractLsb' 8 8 :=
    byte_okState_store (cs := (cells4 a v).take 2) (by simp)
  have h₃ : (okState s regs (cells4 a v)).byte (a + 3) = v.extractLsb' 0 8 :=
    byte_okState_store (cs := (cells4 a v).take 3) (by simp)
  rw [← memRead4_be4, memRead4, h₀, h₁, h₂, h₃, append_extract4]

/-- A field of two bytes, cut into bytes again. -/
theorem cells2_memRead2 (rd : Nat → Byte) (a : Nat) : cells2 a (memRead2 rd a) = [(a, rd a), (a + 1, rd (a + 1))] := by
  have hhigh := (rd a).isLt
  have hlow := (rd (a + 1)).isLt
  have h₀ : (memRead2 rd a).extractLsb' 8 8 = rd a := BitVec.eq_of_toNat_eq (by
    rw [BitVec.extractLsb'_toNat, memRead2_toNat, Nat.shiftRight_eq_div_pow]; omega)
  have h₁ : (memRead2 rd a).extractLsb' 0 8 = rd (a + 1) := BitVec.eq_of_toNat_eq (by
    rw [BitVec.extractLsb'_toNat, memRead2_toNat, Nat.shiftRight_eq_div_pow]; omega)
  rw [cells2, h₀, h₁]

/-- A field of four bytes, cut into bytes again. -/
theorem cells4_memRead4 (rd : Nat → Byte) (a : Nat) :
    cells4 a (memRead4 rd a) = [(a, rd a), (a + 1, rd (a + 1)), (a + 2, rd (a + 2)), (a + 3, rd (a + 3))] := by
  have hb : ∀ x, (rd x).toNat < 256 := fun x => (rd x).isLt
  have := hb a
  have := hb (a + 1)
  have := hb (a + 2)
  have := hb (a + 3)
  have h₀ : (memRead4 rd a).extractLsb' 24 8 = rd a := BitVec.eq_of_toNat_eq (by
    rw [BitVec.extractLsb'_toNat, memRead4_toNat, Nat.shiftRight_eq_div_pow]; omega)
  have h₁ : (memRead4 rd a).extractLsb' 16 8 = rd (a + 1) := BitVec.eq_of_toNat_eq (by
    rw [BitVec.extractLsb'_toNat, memRead4_toNat, Nat.shiftRight_eq_div_pow]; omega)
  have h₂ : (memRead4 rd a).extractLsb' 8 8 = rd (a + 2) := BitVec.eq_of_toNat_eq (by
    rw [BitVec.extractLsb'_toNat, memRead4_toNat, Nat.shiftRight_eq_div_pow]; omega)
  have h₃ : (memRead4 rd a).extractLsb' 0 8 = rd (a + 3) := BitVec.eq_of_toNat_eq (by
    rw [BitVec.extractLsb'_toNat, memRead4_toNat, Nat.shiftRight_eq_div_pow]; omega)
  rw [cells4, h₀, h₁, h₂, h₃]

theorem byte_okState_cells2_held (s : State) (regs : Results) (a x : Nat) :
    (okState s regs (cells2 a (memRead2 s.byte a))).byte x = s.byte x :=
  byte_okState_of_held (by simp [cells2_memRead2]) x

theorem byte_okState_cells4_held (s : State) (regs : Results) (a x : Nat) :
    (okState s regs (cells4 a (memRead4 s.byte a))).byte x = s.byte x :=
  byte_okState_of_held (by simp [cells4_memRead4]) x

/-! ### A checksum word written into its region (42 R190, 43 R222) -/

/-- The state after a patch of the checksum word at `b + z` of the region of `n` bytes from `b` on. -/
def checksumPatched (s : State) (regs : Results) (b n z : Nat) : State :=
  okState s regs (cells2 (b + z) (BitVec.ofNat 16 (checksumWithout s.byte b n z)))

theorem byte_checksumPatched {s : State} {regs : Results} {b n z x : Nat} (h : x ≠ b + z) (h' : x ≠ b + z + 1) :
    (checksumPatched s regs b n z).byte x = s.byte x :=
  byte_okState_of_not_mem fun _ hc hx => (mem_cells2 hc).elim (fun hz => h (hx ▸ hz)) fun hz => h' (hx ▸ hz)

/-- The word patched in is the checksum of the patched region, which leaves the word out. -/
theorem be2_checksumPatched (s : State) (regs : Results) (b n : Nat) {z : Nat} (hz : z % 2 = 0) :
    be2 (checksumPatched s regs b n z).byte (b + z) = checksumWithout (checksumPatched s regs b n z).byte b n z := by
  rw [checksumWithout_congr hz fun x => byte_checksumPatched]
  exact (be2_okState_cells2 ..).trans (Nat.mod_eq_of_lt (checksumWithout_lt ..))

/-- Where the word is the checksum already, the patch changes no byte. -/
theorem byte_checksumPatched_of_valid {s : State} {b n z : Nat} (h : be2 s.byte (b + z) = checksumWithout s.byte b n z)
    (regs : Results) (x : Nat) : (checksumPatched s regs b n z).byte x = s.byte x := by
  rw [checksumPatched, ← h, ← memRead2_be2, BitVec.ofNat_toNat, BitVec.setWidth_eq]
  exact byte_okState_cells2_held s regs (b + z) x

/-! ### The IPv4 pair (42 R191) -/

theorem ip4Checks_pass_iff (s : State) :
    firstFailure (ip4Checks s) = none ↔
      base s + len s ≤ s.params.bufBytes ∧ 20 ≤ len s ∧ version s = 4 ∧ 5 ≤ ihl s ∧ 4 * ihl s ≤ len s
        ∧ be2 s.byte (base s + 10) = checksumWithout s.byte (base s) (4 * ihl s) 10 ∧ 4 * ihl s ≤ totalLength s := by
  simp [ip4Checks, rangeCheck, firstFailure_cons_eq_none_iff]

theorem ip4PatchChecks_pass_iff (s : State) :
    firstFailure (ip4PatchChecks s) = none ↔
      base s + len s ≤ s.params.bufBytes ∧ 20 ≤ len s ∧ 5 ≤ ihl s ∧ 4 * ihl s ≤ len s := by
  simp [ip4PatchChecks, rangeCheck, firstFailure_cons_eq_none_iff]

theorem ip4CsumPatchRule_follows_cells2 (s : State) :
    Follows (ip4CsumPatchRule s.params s.ops s.byte) (ip4PatchChecks s)
      { regs := { r0 := reg (checksumWithout s.byte (base s) (4 * ihl s) 10), r1 := reg (4 * ihl s) },
        stores := cells2 (base s + 10) (BitVec.ofNat 16 (checksumWithout s.byte (base s) (4 * ihl s) 10)) } := by
  rw [cells2_ofNat]
  exact ip4CsumPatchRule_follows s

/-- The fields that the parse reads before the checksum lie outside the word patched. -/
theorem ip4Checks_of_checksumPatched {s : State} (regs : Results) (hpatch : firstFailure (ip4PatchChecks s) = none)
    (hversion : version s = 4) (htotal : 4 * ihl s ≤ totalLength s) :
    firstFailure (ip4Checks (checksumPatched s regs (base s) (4 * ihl s) 10)) = none := by
  obtain ⟨hrange, hlen, hihl, hfits⟩ := (ip4PatchChecks_pass_iff s).1 hpatch
  have hsame {x : Nat} (hx : x < 10) :
      (checksumPatched s regs (base s) (4 * ihl s) 10).byte (base s + x) = s.byte (base s + x) :=
    byte_checksumPatched (by omega) (by omega)
  have hversion' : version (checksumPatched s regs (base s) (4 * ihl s) 10) = version s :=
    congrArg (·.toNat / 16) (hsame (x := 0) (by decide))
  have hihl' : ihl (checksumPatched s regs (base s) (4 * ihl s) 10) = ihl s :=
    congrArg (·.toNat % 16) (hsame (x := 0) (by decide))
  have htotal' : totalLength (checksumPatched s regs (base s) (4 * ihl s) 10) = totalLength s :=
    congrArg₂ (256 * ·.toNat + ·.toNat) (hsame (x := 2) (by decide)) (hsame (x := 3) (by decide))
  rw [ip4Checks_pass_iff, hversion', hihl', htotal']
  exact ⟨hrange, hlen, hversion, hihl, hfits, be2_checksumPatched s regs (base s) (4 * ihl s) (by decide), htotal⟩

end Sys2Proof.Machine

namespace Sys2Proof.Proofs

open Sys2Proof.Machine Sys2Proof.Spec

/-- Settles O53: the parse makes the checks of the patch and finds the word the patch would store; after a patch it finds
the word that was stored. -/
theorem ip4RoundTrip : Obligations.Ip4RoundTrip := by
  refine ⟨fun s t hexec hok => ?_, fun s t hexec hok hversion htotal => ?_⟩
  · obtain ⟨hpass, -⟩ := (ip4HdrParseRule_follows s).of_completes_ok hexec hok
    obtain ⟨hrange, hlen, -, hihl, hfits, hvalid, -⟩ := (ip4Checks_pass_iff s).1 hpass
    have hpatch := (ip4PatchChecks_pass_iff s).2 ⟨hrange, hlen, hihl, hfits⟩
    exact ⟨_, (ip4CsumPatchRule_follows_cells2 s).completes hpatch, rfl, byte_checksumPatched_of_valid hvalid _⟩
  · obtain ⟨hpatch, rfl⟩ := (ip4CsumPatchRule_follows_cells2 s).of_completes_ok hexec hok
    exact ⟨_, (ip4HdrParseRule_follows _).completes (ip4Checks_of_checksumPatched _ hpatch hversion htotal), rfl⟩

end Sys2Proof.Proofs

/-! ### The ICMP pair (43 R223) -/

namespace Sys2Proof.Machine

open Sys2Proof.Spec

theorem icmpFirstChecks_pass_iff (s : State) :
    firstFailure (icmpFirstChecks s) = none ↔ base s + len s ≤ s.params.bufBytes ∧ 4 ≤ len s := by
  simp [icmpFirstChecks, rangeCheck, firstFailure_cons_eq_none_iff]

theorem icmpPatchChecks_pass_iff (s : State) :
    firstFailure (icmpFirstChecks s ++ [(len s % 2 == 1, 7, 0x03)]) = none ↔
      base s + len s ≤ s.params.bufBytes ∧ 4 ≤ len s ∧ len s % 2 = 0 := by
  rw [firstFailure_append_eq_none_iff, icmpFirstChecks_pass_iff]
  simp [firstFailure_cons_eq_none_iff, and_assoc]

theorem messageChecks_pass_iff (s : State) (kind : IcmpKind) :
    firstFailure (messageChecks s kind) = none ↔ messageLength s kind % 2 = 0
      ∧ be2 s.byte (base s + 2) = checksumWithout s.byte (base s) (messageLength s kind) 2 := by
  simp [messageChecks, firstFailure_cons_eq_none_iff]

theorem icmpCsumPatchRule_follows_cells2 (s : State) :
    Follows (icmpCsumPatchRule s.params s.ops s.byte) (icmpFirstChecks s ++ [(len s % 2 == 1, 7, 0x03)])
      { regs := { r0 := reg (checksumWithout s.byte (base s) (len s) 2) },
        stores := cells2 (base s + 2) (BitVec.ofNat 16 (checksumWithout s.byte (base s) (len s) 2)) } := by
  rw [cells2_ofNat]
  exact icmpCsumPatchRule_follows s

/-- A parse that succeeds has found its tag in the table. -/
theorem icmpParse_ok_cases {s t : State} (h : exec .icmpParse s = .next t) (hok : t.status.ok = true) :
    ∃ row : IcmpRow, firstFailure (icmpKindChecks s row.kind) = none
      ∧ t = okState s (icmpColumns s row.kind (if row.reply then 1 else 0)) [] := by
  cases hlookup : icmpRowOf s.params.icmpTypes (s.byte (base s)) with
  | some row => exact ⟨row, (icmpParseRule_follows_of_some hlookup).of_completes_ok h hok⟩
  | none =>
    obtain ⟨hpass, -⟩ := (icmpParseRule_follows_of_none hlookup {}).of_completes_ok h hok
    cases (firstFailure_append_eq_none_iff.1 hpass).2

/-- `R5` of every kind is the message length (43 R216). -/
theorem icmpColumns_r5 (s : State) (kind : IcmpKind) (reply : Nat) :
    (icmpColumns s kind reply).r5 = reg (messageLength s kind) := by
  cases kind <;> rfl

theorem messageLength_bounds {s : State} {kind : IcmpKind} (h : firstFailure (lengthChecks s kind) = none) :
    messageLength s kind ≤ len s ∧ 8 ≤ messageLength s kind :=
  icmpLength_le ((icmpLength_follows s kind).ok h)

theorem reg_toNat {n : Nat} {v : Word} (h : n ≤ v.toNat) : (reg n).toNat = n :=
  Nat.mod_eq_of_lt (h.trans_lt v.isLt)

/-- The tag stands before the checksum word. -/
theorem icmpTag_checksumPatched (s : State) (regs : Results) (n : Nat) :
    (checksumPatched s regs (base s) n 2).byte (base s) = s.byte (base s) :=
  byte_checksumPatched (by omega) (by omega)

/-- The length rules read one byte, behind the checksum word. -/
theorem origIhl_checksumPatched (s : State) (regs : Results) (n : Nat) :
    origIhl (checksumPatched s regs (base s) n 2) = origIhl s :=
  congrArg (·.toNat % 16) (byte_checksumPatched (x := base s + errorPrefix s) (by unfold errorPrefix; omega)
    (by unfold errorPrefix; omega))

theorem messageLength_checksumPatched (s : State) (regs : Results) (n : Nat) (kind : IcmpKind) :
    messageLength (checksumPatched s regs (base s) n 2) kind = messageLength s kind := by
  cases kind with
  | echo | timestamp | information => rfl
  | destUnreachable | sourceQuench | redirect | timeExceeded | parameterProblem =>
    exact congrArg (errorPrefix s + 4 * · + 8) (origIhl_checksumPatched s regs n)

theorem lengthChecks_checksumPatched (s : State) (regs : Results) (n : Nat) (kind : IcmpKind) :
    lengthChecks (checksumPatched s regs (base s) n 2) kind = lengthChecks s kind := by
  cases kind with
  | echo | timestamp | information => rfl
  | destUnreachable | sourceQuench | redirect | timeExceeded | parameterProblem =>
    simp only [lengthChecks, origIhl_checksumPatched]
    rfl

/-- A patched message whose length is its kind's passes the kind's checks. -/
theorem icmpKindChecks_of_checksumPatched {s : State} {kind : IcmpKind} (regs : Results)
    (hpatch : firstFailure (icmpFirstChecks s ++ [(len s % 2 == 1, 7, 0x03)]) = none)
    (hlength : firstFailure (lengthChecks s kind) = none) (hmlen : messageLength s kind = len s) :
    firstFailure (icmpKindChecks (checksumPatched s regs (base s) (len s) 2) kind) = none := by
  obtain ⟨hrange, hfour, heven⟩ := (icmpPatchChecks_pass_iff s).1 hpatch
  rw [icmpKindChecks, firstFailure_append_eq_none_iff, firstFailure_append_eq_none_iff, icmpFirstChecks_pass_iff,
    lengthChecks_checksumPatched, messageChecks_pass_iff, messageLength_checksumPatched, hmlen]
  exact ⟨⟨⟨hrange, hfour⟩, hlength⟩, heven, be2_checksumPatched s regs (base s) (len s) (by decide)⟩

/-- `ICMP.PARSE` of a patched message finds the tag it had, and its checks pass. -/
theorem exec_icmpParse_of_checksumPatched {s : State} {row : IcmpRow} (regs : Results)
    (hpatch : firstFailure (icmpFirstChecks s ++ [(len s % 2 == 1, 7, 0x03)]) = none)
    (hrow : icmpRowOf s.params.icmpTypes (s.byte (base s)) = some row)
    (hlength : firstFailure (lengthChecks s row.kind) = none) (hmlen : messageLength s row.kind = len s) :
    ∃ u, exec .icmpParse (checksumPatched s regs (base s) (len s) 2) = .next u ∧ u.status.ok = true := by
  rw [← icmpTag_checksumPatched s regs (len s)] at hrow
  exact ⟨_, (icmpParseRule_follows_of_some hrow).completes (icmpKindChecks_of_checksumPatched regs hpatch hlength hmlen),
    rfl⟩

/-- `ICMP.CSUM.PATCH` of a region whose checksum word is valid stores that word again. -/
theorem exec_icmpCsumPatch_of_valid {s : State} {n : Nat} (hlen : len s = n)
    (hrange : base s + n ≤ s.params.bufBytes) (hfour : 4 ≤ n) (heven : n % 2 = 0)
    (hvalid : be2 s.byte (base s + 2) = checksumWithout s.byte (base s) n 2) :
    ∃ u, exec .icmpCsumPatch s = .next u ∧ u.status.ok = true ∧ ∀ a, u.byte a = s.byte a := by
  subst hlen
  exact ⟨_, (icmpCsumPatchRule_follows_cells2 s).completes ((icmpPatchChecks_pass_iff s).2 ⟨hrange, hfour, heven⟩), rfl,
    byte_checksumPatched_of_valid hvalid _⟩

end Sys2Proof.Machine

namespace Sys2Proof.Proofs

open Sys2Proof.Machine Sys2Proof.Spec

/-- Settles O54: a patch leaves the tag and the length rule's byte, and the word the parse recomputes; the parse has made
the checks of a patch of its message length and found the word that patch would store. -/
theorem icmpRoundTrip : Obligations.IcmpRoundTrip := by
  refine ⟨fun s t row hexec hok hrow hlength hmlen => ?_, fun s t hexec hok => ?_⟩
  · obtain ⟨hpatch, rfl⟩ := (icmpCsumPatchRule_follows_cells2 s).of_completes_ok hexec hok
    exact exec_icmpParse_of_checksumPatched _ hpatch hrow hlength hmlen
  · obtain ⟨row, hpass, rfl⟩ := icmpParse_ok_cases hexec hok
    rw [icmpKindChecks, firstFailure_append_eq_none_iff, firstFailure_append_eq_none_iff, icmpFirstChecks_pass_iff,
      messageChecks_pass_iff] at hpass
    obtain ⟨⟨⟨hrange, -⟩, hlength⟩, heven, hvalid⟩ := hpass
    obtain ⟨hle, height⟩ := messageLength_bounds hlength
    have hlen := (congrArg BitVec.toNat (icmpColumns_r5 s row.kind (if row.reply then 1 else 0))).trans (reg_toNat hle)
    exact exec_icmpCsumPatch_of_valid hlen ((Nat.add_le_add_left hle _).trans hrange) (by omega) heven hvalid

end Sys2Proof.Proofs

/-! ### The SCTP pair (44 R263) and one flipped bit (60 R346) -/

namespace Sys2Proof.Machine

open Sys2Proof.Spec

theorem sctpHeaderChecks_pass_iff (s : State) :
    firstFailure (sctpHeaderChecks s) = none ↔ base s + len s ≤ s.params.bufBytes ∧ 12 ≤ len s := by
  simp [sctpHeaderChecks, rangeCheck, firstFailure_cons_eq_none_iff]

theorem sctpPacketChecks_pass_iff (s : State) :
    firstFailure (sctpPacketChecks s) = none ↔
      firstFailure (sctpHeaderChecks s) = none ∧ be4 s.byte (base s + 8) = crcOf s.byte (base s) (len s) 8 := by
  simp [sctpPacketChecks, firstFailure_append_eq_none_iff, firstFailure_cons_eq_none_iff]

theorem crcChecks_pass_iff (s : State) :
    firstFailure (crcChecks s) = none ↔ base s + len s ≤ s.params.bufBytes ∧ s.ops.a2.toNat + 4 ≤ len s := by
  simp [crcChecks, rangeCheck, firstFailure_cons_eq_none_iff]

/-- The CRC reads zero for the four bytes of its field (41 R162). -/
theorem crcOf_congr {rd rd' : Nat → Byte} {b n k : Nat} (h : ∀ a, ¬(b + k ≤ a ∧ a < b + k + 4) → rd' a = rd a) :
    crcOf rd' b n k = crcOf rd b n k := by
  rw [← crc32c_toNat, ← crc32c_toNat, crc32c_congr fun i _ hfield => h (b + i) (by omega)]

/-- The state after a patch of the CRC of the packet of `n` bytes from `b` on. -/
def crcPatched (s : State) (regs : Results) (b n : Nat) : State :=
  okState s regs (cells4 (b + 8) (reg (crcOf s.byte b n 8)))

theorem byte_crcPatched {s : State} {regs : Results} {b n x : Nat} (h : ¬(b + 8 ≤ x ∧ x < b + 8 + 4)) :
    (crcPatched s regs b n).byte x = s.byte x :=
  byte_okState_of_not_mem fun _ hc hx => h (hx ▸ mem_cells4 hc)

/-- The field patched in is the CRC of the patched packet, which leaves the field out. -/
theorem be4_crcPatched (s : State) (regs : Results) (b n : Nat) :
    be4 (crcPatched s regs b n).byte (b + 8) = crcOf (crcPatched s regs b n).byte b n 8 := by
  rw [crcOf_congr fun x => byte_crcPatched]
  exact (be4_okState_cells4 ..).trans (Nat.mod_eq_of_lt (crcOf_lt ..))

/-- Where the field is the CRC already, the patch changes no byte. -/
theorem byte_crcPatched_of_valid {s : State} {b n : Nat} (h : be4 s.byte (b + 8) = crcOf s.byte b n 8)
    (regs : Results) (x : Nat) : (crcPatched s regs b n).byte x = s.byte x := by
  rw [crcPatched, ← h, ← memRead4_reg]
  exact byte_okState_cells4_held s regs (b + 8) x

theorem sctpPacketChecks_of_crcPatched {s : State} (regs : Results)
    (hheader : firstFailure (sctpHeaderChecks s) = none) :
    firstFailure (sctpPacketChecks (crcPatched s regs (base s) (len s))) = none :=
  (sctpPacketChecks_pass_iff _).2 ⟨hheader, be4_crcPatched s regs (base s) (len s)⟩

/-- `CRC32C.VAL` of a packet with its field at bytes 8 to 11 reports whether it is valid. -/
theorem exec_crc32cVal_of_valid {s : State} (hfield : s.ops.a2 = 8#32)
    (hpass : firstFailure (sctpPacketChecks s) = none) :
    ∃ u, exec .crc32cVal s = .next u ∧ u.status.ok = true ∧ u.res.r0 = 1#32 := by
  have ha2 : s.ops.a2.toNat = 8 := congrArg BitVec.toNat hfield
  obtain ⟨hheader, hvalid⟩ := (sctpPacketChecks_pass_iff s).1 hpass
  have hchecks : firstFailure (crcChecks s) = none := by
    rw [crcChecks_pass_iff, ha2]
    exact (sctpHeaderChecks_pass_iff s).1 hheader
  refine ⟨_, (crc32cValRule_follows s).completes hchecks, rfl, if_pos ?_⟩
  rw [ha2]
  exact hvalid

/-- A byte changed outside the field leaves the stored CRC and changes the computed one: of the checks of an accepted
packet, the one for the CRC is then the first that fails. -/
theorem sctpPacketChecks_of_byte_ne {s s' : State} {i : Nat} (hops : s'.ops = s.ops) (hparams : s'.params = s.params)
    (hpass : firstFailure (sctpPacketChecks s) = none) (hsame : ∀ x, x ≠ base s + i → s'.byte x = s.byte x)
    (hchanged : s'.byte (base s + i) ≠ s.byte (base s + i)) (hi : i < len s) (hfield : ¬(8 ≤ i ∧ i < 8 + 4)) :
    firstFailure (sctpPacketChecks s') = some (3, 0x31) := by
  obtain ⟨hheader, hvalid⟩ := (sctpPacketChecks_pass_iff s).1 hpass
  have hbase : base s' = base s := congrArg (·.a0.toNat) hops
  have hlen : len s' = len s := congrArg (·.a1.toNat) hops
  have hheader' : firstFailure (sctpHeaderChecks s') = none := by
    rw [sctpHeaderChecks_pass_iff, hbase, hlen, hparams]
    exact (sctpHeaderChecks_pass_iff s).1 hheader
  have hstored : be4 s'.byte (base s + 8) = be4 s.byte (base s + 8) := by
    rw [← memRead4_be4, ← memRead4_be4, memRead4_congr fun x hlo hhi => hsame x (by omega)]
  have hcomputed : crcOf s'.byte (base s) (len s) 8 ≠ crcOf s.byte (base s) (len s) 8 := by
    rw [← crc32c_toNat, ← crc32c_toNat]
    exact mt BitVec.eq_of_toNat_eq (crc32c_ne_of_byte_ne hsame hchanged hfield hi)
  rw [sctpPacketChecks, firstFailure_append_of_none hheader', hbase, hlen, hstored, hvalid]
  exact firstFailure_cons_true (bne_iff_ne.2 hcomputed.symm)

end Sys2Proof.Machine

namespace Sys2Proof.Proofs

open Sys2Proof.Machine Sys2Proof.Spec

/-- Settles O55: the CRC leaves its field out, so it is the same before and after the patch. -/
theorem sctpRoundTrip : Obligations.SctpRoundTrip := by
  refine ⟨fun s t hexec hok => ?_, fun s t hexec hok => ?_⟩
  · obtain ⟨hheader, rfl⟩ := (sctpCsumPatchRule_follows s).of_completes_ok hexec hok
    have hpass := sctpPacketChecks_of_crcPatched { r0 := reg (crcOf s.byte (base s) (len s) 8) } hheader
    exact ⟨⟨_, (sctpPktCheckRule_follows _).completes hpass, rfl⟩, exec_crc32cVal_of_valid rfl hpass⟩
  · obtain ⟨hpass, -⟩ := (sctpPktCheckRule_follows s).of_completes_ok hexec hok
    obtain ⟨hheader, hvalid⟩ := (sctpPacketChecks_pass_iff s).1 hpass
    exact ⟨_, (sctpCsumPatchRule_follows s).completes hheader, rfl, byte_crcPatched_of_valid hvalid _⟩

/-- Settles O57: the CRC sees the flipped bit, and both commands test it before any chunk. -/
theorem sctpSingleBitRefused : Obligations.SctpSingleBitRefused := by
  intro s s' t a j hops hparams hflip hlo hhi hfield hexec hok
  have hchanged := ne_of_flippedBit hflip
  obtain ⟨-, -, hsame⟩ := hflip
  obtain ⟨i, rfl⟩ := Nat.exists_eq_add_of_le hlo
  obtain ⟨hpass, -⟩ := (sctpPktCheckRule_follows s).of_completes_ok hexec hok
  have hfails := sctpPacketChecks_of_byte_ne hops hparams hpass hsame hchanged (by omega) (by omega)
  exact ⟨(complete_of_follows (sctpPktCheckRule_follows s')).2 3 0x31 hfails, exec_sctpPktWalk_of_packetChecks hfails⟩

end Sys2Proof.Proofs

/-! ### The chunk pair (45 R290, R291) -/

namespace Sys2Proof.Machine

open Sys2Proof.Spec

theorem firstFailure_rangeCheck_cons_iff {s : State} {checks : List Check} :
    firstFailure (rangeCheck s :: checks) = none ↔
      base s + len s ≤ s.params.bufBytes ∧ firstFailure checks = none := by
  rw [rangeCheck, firstFailure_cons_eq_none_iff, decide_eq_true_iff, Nat.not_lt]

theorem chunkChecks_pass_iff {p : Params} {rd : Nat → Byte} {cur rem : Nat} {kind : ChunkKind}
    (hkind : chunkKindOf p.chunkTypes (rd cur) = some kind) :
    firstFailure (chunkChecks p rd cur rem) = none ↔
      4 ≤ rem ∧ 4 ≤ be2 rd (cur + 2) ∧ chunkLenOk p.chunkTypes kind (be2 rd (cur + 2)) = true
        ∧ roundUp (be2 rd (cur + 2)) ≤ rem := by
  simp [chunkChecks, firstFailure_cons_eq_none_iff, hkind, lengthAllowed_of_known hkind, and_assoc]

theorem frameChecks_pass_iff {s : State} {kind : ChunkKind}
    (hkind : chunkKindOf s.params.chunkTypes (octet (frameType s)) = some kind) :
    firstFailure (frameChecks s) = none ↔
      base s + len s ≤ s.params.bufBytes ∧ s.ops.a2.toNat < 65536 ∧ s.ops.a3.toNat ≤ 65531
        ∧ chunkLenOk s.params.chunkTypes kind (frameLength s) = true ∧ roundUp (frameLength s) ≤ len s := by
  simp [frameChecks, rangeCheck, firstFailure_cons_eq_none_iff, hkind, lengthAllowed_of_known hkind]

/-- `SCTP.CHUNK.NEXT` that succeeds has found the type in the table. -/
theorem sctpChunkNext_ok {s t : State} (h : exec .sctpChunkNext s = .next t) (hok : t.status.ok = true) :
    ∃ kind, chunkKindOf s.params.chunkTypes (s.byte (base s)) = some kind
      ∧ base s + len s ≤ s.params.bufBytes ∧ firstFailure (chunkChecks s.params s.byte (base s) (len s)) = none := by
  cases hlookup : chunkKindOf s.params.chunkTypes (s.byte (base s)) with
  | some kind =>
    obtain ⟨hpass, -⟩ := (sctpChunkNextRule_follows (chunkAt_follows_of_some hlookup)).of_completes_ok h hok
    exact ⟨kind, rfl, firstFailure_rangeCheck_cons_iff.1 hpass⟩
  | none =>
    obtain ⟨hpass, -⟩ := (sctpChunkNextRule_follows_of_none hlookup {}).of_completes_ok h hok
    simp [rangeCheck, chunkChecks, firstFailure_cons_eq_none_iff, hlookup] at hpass

/-- `SCTP.CHUNK.FRAME` that succeeds has found the type in the table, and leaves its columns and its stores. -/
theorem sctpChunkFrame_ok {s t : State} (h : exec .sctpChunkFrame s = .next t) (hok : t.status.ok = true) :
    ∃ kind, chunkKindOf s.params.chunkTypes (octet (frameType s)) = some kind ∧ firstFailure (frameChecks s) = none
      ∧ t = okState s (chunkColumns (base s) (len s) (frameType s) (frameFlags s) (frameLength s) (kindColumn kind))
        (frameStores s) := by
  cases hlookup : chunkKindOf s.params.chunkTypes (octet (frameType s)) with
  | some kind => exact ⟨kind, rfl, (sctpChunkFrameRule_follows_of_some hlookup).of_completes_ok h hok⟩
  | none =>
    obtain ⟨hpass, -⟩ := (sctpChunkFrameRule_follows_of_none hlookup {}).of_completes_ok h hok
    simp [rangeCheck, frameChecks, firstFailure_cons_eq_none_iff, hlookup] at hpass

theorem octet_frameType_toNat (s : State) : (octet (frameType s)).toNat = frameType s :=
  octet_toNat (Nat.mod_lt _ (by decide))

theorem octet_frameFlags_toNat (s : State) : (octet (frameFlags s)).toNat = frameFlags s :=
  octet_toNat (Nat.mod_lt _ (by decide))

/-- The operands of `SCTP.CHUNK.FRAME` describe the chunk that stands at the base of the region (45 R291). -/
structure FramesOwnChunk (s : State) : Prop where
  type : octet (frameType s) = s.byte (base s)
  flags : octet (frameFlags s) = s.byte (base s + 1)
  length : frameLength s = be2 s.byte (base s + 2)
  upper : s.ops.a2.toNat < 65536

/-- The type and flags as `A2`, and the length of the value as `A3`. -/
theorem framesOwnChunk {s : State} (ha2 : s.ops.a2 = reg (256 * (s.byte (base s)).toNat + (s.byte (base s + 1)).toNat))
    (ha3 : s.ops.a3 = reg (be2 s.byte (base s + 2) - 4)) (hlength : 4 ≤ be2 s.byte (base s + 2)) :
    FramesOwnChunk s := by
  have htype := (s.byte (base s)).isLt
  have hflags := (s.byte (base s + 1)).isLt
  have hmax := be2_lt s.byte (base s + 2)
  have hword : s.ops.a2.toNat = 256 * (s.byte (base s)).toNat + (s.byte (base s + 1)).toNat := by
    rw [ha2]
    exact Nat.mod_eq_of_lt (by omega)
  have hvalue : s.ops.a3.toNat = be2 s.byte (base s + 2) - 4 := by
    rw [ha3]
    exact Nat.mod_eq_of_lt (by omega)
  refine ⟨BitVec.eq_of_toNat_eq ?_, BitVec.eq_of_toNat_eq ?_, ?_, ?_⟩
  · rw [octet_frameType_toNat, frameType, hword]
    omega
  · rw [octet_frameFlags_toNat, frameFlags, hword]
    omega
  · rw [frameLength, hvalue]
    omega
  · omega

/-- The chunk's own checks are those of its frame. -/
theorem FramesOwnChunk.frameChecks {s : State} {kind : ChunkKind} (h : FramesOwnChunk s)
    (hkind : chunkKindOf s.params.chunkTypes (s.byte (base s)) = some kind)
    (hrange : base s + len s ≤ s.params.bufBytes)
    (hpass : firstFailure (chunkChecks s.params s.byte (base s) (len s)) = none) :
    firstFailure (frameChecks s) = none := by
  obtain ⟨-, -, hrule, hfits⟩ := (chunkChecks_pass_iff hkind).1 hpass
  rw [← h.length] at hrule hfits
  have hvalue : s.ops.a3.toNat ≤ 65531 := by
    have hmax := be2_lt s.byte (base s + 2)
    rw [← h.length, frameLength] at hmax
    omega
  exact (frameChecks_pass_iff (h.type ▸ hkind)).2 ⟨hrange, h.upper, hvalue, hrule, hfits⟩

/-- The header stores of such a frame are of what the bytes hold, and the others of zero padding. -/
theorem FramesOwnChunk.stores {s : State} (h : FramesOwnChunk s) {c : Host.Cell} (hc : c ∈ frameStores s) :
    c.2 = s.byte c.1 ∨ base s + be2 s.byte (base s + 2) ≤ c.1
      ∧ c.1 < base s + roundUp (be2 s.byte (base s + 2)) ∧ c.2 = 0#8 := by
  have hcells : [(base s + 2, octet (frameLength s / 256)), (base s + 2 + 1, octet (frameLength s % 256))]
      = [(base s + 2, s.byte (base s + 2)), (base s + 2 + 1, s.byte (base s + 2 + 1))] := by
    rw [← cells2_memRead2, ← cells2_ofNat, h.length, ← memRead2_be2, BitVec.ofNat_toNat, BitVec.setWidth_eq]
  simp only [List.cons.injEq, Prod.mk.injEq, true_and, and_true] at hcells
  obtain ⟨hhigh, hlow⟩ := hcells
  rw [frameStores, h.type, h.flags, hhigh, hlow, h.length] at hc
  simp only [List.cons_append, List.nil_append, List.mem_cons, List.mem_map, List.mem_range] at hc
  obtain rfl | rfl | rfl | rfl | ⟨i, hi, rfl⟩ := hc
  · exact .inl rfl
  · exact .inl rfl
  · exact .inl rfl
  · exact .inl rfl
  · exact .inr ⟨Nat.le_add_right _ _, by simp only; omega, rfl⟩

/-- Framing a chunk again changes no byte but padding that was not zero (45 R290, R291). -/
theorem exec_sctpChunkFrame_of_ownChunk {s : State} {kind : ChunkKind} (h : FramesOwnChunk s)
    (hkind : chunkKindOf s.params.chunkTypes (s.byte (base s)) = some kind)
    (hrange : base s + len s ≤ s.params.bufBytes)
    (hpass : firstFailure (chunkChecks s.params s.byte (base s) (len s)) = none) :
    ∃ u, exec .sctpChunkFrame s = .next u ∧ u.status.ok = true ∧ ∀ a, u.byte a ≠ s.byte a →
      base s + be2 s.byte (base s + 2) ≤ a ∧ a < base s + roundUp (be2 s.byte (base s + 2)) ∧ s.byte a ≠ 0#8 := by
  have hfollows := sctpChunkFrameRule_follows_of_some (h.type ▸ hkind)
  refine ⟨_, hfollows.completes (h.frameChecks hkind hrange hpass), rfl, fun a ha => ?_⟩
  obtain hkept | ⟨c, hc, rfl, hstored⟩ := byte_okState_cases s _ (frameStores s) a
  · exact absurd hkept ha
  · obtain hheld | ⟨hlo, hhi, hzero⟩ := h.stores hc
    · exact absurd (hstored.trans hheld) ha
    · exact ⟨hlo, hhi, fun hbyte => ha (hstored.trans (hzero.trans hbyte.symm))⟩

/-- The state after a frame. -/
def framed (s : State) (regs : Results) : State := okState s regs (frameStores s)

/-- The offsets and zeros of the padding of a frame (45 R290). -/
def framePadding (s : State) : List Host.Cell :=
  (List.range (roundUp (frameLength s) - frameLength s)).map fun i => (base s + frameLength s + i, 0#8)

/-- The padding begins behind the header. -/
theorem mem_framePadding {s : State} {c : Host.Cell} (hc : c ∈ framePadding s) : base s + 4 ≤ c.1 := by
  obtain ⟨i, -, rfl⟩ := List.mem_map.1 hc
  rw [frameLength]
  omega

/-- A frame stores type and flags, then the length, then the padding. -/
theorem framed_eq (s : State) (regs : Results) :
    framed s regs =
      okState (okState (okState s regs [(base s, octet (frameType s)), (base s + 1, octet (frameFlags s))]) regs
        (cells2 (base s + 2) (BitVec.ofNat 16 (frameLength s)))) regs (framePadding s) := by
  rw [← okState_append, ← okState_append, cells2_ofNat]
  rfl

theorem byte_framed_header {s : State} {regs : Results} {x : Nat} (hx : x < base s + 4) :
    (framed s regs).byte x =
      (okState (okState s regs [(base s, octet (frameType s)), (base s + 1, octet (frameFlags s))]) regs
        (cells2 (base s + 2) (BitVec.ofNat 16 (frameLength s)))).byte x := by
  rw [framed_eq]
  exact byte_okState_of_not_mem fun c hc hcx => by
    have := mem_framePadding hc
    omega

theorem byte_framed_type (s : State) (regs : Results) : (framed s regs).byte (base s) = octet (frameType s) := by
  rw [byte_framed_header (by omega), byte_okState_of_not_mem fun c hc => by have := mem_cells2 hc; omega]
  exact byte_okState_store (cs := []) (by simp)

theorem byte_framed_flags (s : State) (regs : Results) :
    (framed s regs).byte (base s + 1) = octet (frameFlags s) := by
  rw [byte_framed_header (by omega), byte_okState_of_not_mem fun c hc => by have := mem_cells2 hc; omega]
  exact byte_okState_store (cs := [(base s, octet (frameType s))]) (by simp)

theorem be2_framed_length {s : State} (regs : Results) (h : s.ops.a3.toNat ≤ 65531) :
    be2 (framed s regs).byte (base s + 2) = frameLength s := by
  have hmax : frameLength s < 65536 := by
    rw [frameLength]
    omega
  rw [be2, byte_framed_header (by omega), byte_framed_header (by omega), ← be2, be2_okState_cells2]
  exact Nat.mod_eq_of_lt hmax

/-- The checks of the frame are those of the chunk it has framed. -/
theorem chunkChecks_of_framed {s : State} {kind : ChunkKind} (regs : Results)
    (hkind : chunkKindOf s.params.chunkTypes (octet (frameType s)) = some kind)
    (hpass : firstFailure (frameChecks s) = none) :
    firstFailure (rangeCheck (framed s regs) :: chunkChecks s.params (framed s regs).byte (base s) (len s)) = none := by
  obtain ⟨hrange, -, hvalue, hrule, hfits⟩ := (frameChecks_pass_iff hkind).1 hpass
  have hlength := be2_framed_length regs hvalue
  rw [firstFailure_rangeCheck_cons_iff, chunkChecks_pass_iff ((byte_framed_type s regs).symm ▸ hkind), hlength]
  have hfour : 4 ≤ frameLength s := Nat.le_add_right _ _
  have hround : frameLength s ≤ roundUp (frameLength s) := Nat.le_add_right _ _
  exact ⟨hrange, hfour.trans (hround.trans hfits), hfour, hrule, hfits⟩

/-- `SCTP.CHUNK.NEXT` of a framed chunk gives the columns of the frame. -/
theorem exec_sctpChunkNext_of_framed {s : State} {kind : ChunkKind} (regs : Results)
    (hkind : chunkKindOf s.params.chunkTypes (octet (frameType s)) = some kind)
    (hpass : firstFailure (frameChecks s) = none) :
    ∃ u, exec .sctpChunkNext (framed s regs) = .next u ∧ u.status.ok = true
      ∧ u.res = chunkColumns (base s) (len s) (frameType s) (frameFlags s) (frameLength s) (kindColumn kind) := by
  obtain ⟨-, -, hvalue, -⟩ := (frameChecks_pass_iff hkind).1 hpass
  have hfollows := sctpChunkNextRule_follows (s := framed s regs)
    (chunkAt_follows_of_some ((byte_framed_type s regs).symm ▸ hkind))
  refine ⟨_, hfollows.completes (chunkChecks_of_framed regs hkind hpass), rfl, ?_⟩
  have hbase : base (framed s regs) = base s := rfl
  simp only [hbase, byte_framed_type, byte_framed_flags, be2_framed_length regs hvalue, octet_frameType_toNat,
    octet_frameFlags_toNat]
  rfl

end Sys2Proof.Machine

namespace Sys2Proof.Proofs

open Sys2Proof.Machine Sys2Proof.Spec

/-- Settles O56: a frame of the chunk's own header stores what is there, and zeros for padding; after a frame the chunk
read is the one framed. -/
theorem chunkRoundTrip : Obligations.ChunkRoundTrip := by
  refine ⟨fun s t hexec hok => ?_, fun s t hexec hok => ?_⟩
  · obtain ⟨kind, hkind, hrange, hpass⟩ := sctpChunkNext_ok hexec hok
    obtain ⟨-, hlength, -, -⟩ := (chunkChecks_pass_iff hkind).1 hpass
    exact exec_sctpChunkFrame_of_ownChunk (framesOwnChunk rfl rfl hlength) hkind hrange hpass
  · obtain ⟨kind, hkind, hpass, rfl⟩ := sctpChunkFrame_ok hexec hok
    exact exec_sctpChunkNext_of_framed _ hkind hpass

end Sys2Proof.Proofs
